-- ==== Sys2Proof/Word.lean ====
section
/-! DEFINITION. The word types of the core: all values are unsigned bit fields of a fixed width (00_scope.md R10). -/

namespace Sys2Proof

/-- A memory cell, a general register, a timer (10_state.md R20, R25, R30). -/
abbrev Byte := BitVec 8

/-- `PC`, `I`, `IR`, a stack slot, an instruction (10_state.md R22, R24, R27, R28; 30_encoding.md R80). -/
abbrev Word := BitVec 16

/-- The fields X, Y and N of an instruction (30_encoding.md R81); X and Y name a general register. -/
abbrev Nibble := BitVec 4

/-- The field NNN of an instruction (30_encoding.md R81). -/
abbrev Addr12 := BitVec 12

end Sys2Proof
end

