-- ==== Sys2Proof/Syntax.lean ====
section
/-! DEFINITION. The 34 instructions of 30_encoding.md R85, one constructor per row of spec/opcode_table.json, in the table's order.
An operand is the field of R81 as it stands in the word (R83), so every value a constructor can take is a value the encoding admits. -/

namespace Sys2Proof

/-- An instruction of the core (30_encoding.md R85). -/
inductive Instr where
  /-- `CLS`, pattern 00E0, 43_display.md R181. -/
  | cls
  /-- `RET`, pattern 00EE, 40_control_flow.md R111. -/
  | ret
  /-- `JP NNN`, pattern 1NNN, 40_control_flow.md R112. -/
  | jp (nnn : Addr12)
  /-- `CALL NNN`, pattern 2NNN, 40_control_flow.md R113. -/
  | call (nnn : Addr12)
  /-- `SE Vx, NN`, pattern 3XNN, 40_control_flow.md R114. -/
  | seImm (x : Nibble) (nn : Byte)
  /-- `SNE Vx, NN`, pattern 4XNN, 40_control_flow.md R115. -/
  | sneImm (x : Nibble) (nn : Byte)
  /-- `SE Vx, Vy`, pattern 5XY0, 40_control_flow.md R116. -/
  | seReg (x y : Nibble)
  /-- `SNE Vx, Vy`, pattern 9XY0, 40_control_flow.md R117. -/
  | sneReg (x y : Nibble)
  /-- `LD Vx, NN`, pattern 6XNN, 41_alu.md R131. -/
  | ldImm (x : Nibble) (nn : Byte)
  /-- `ADD Vx, NN`, pattern 7XNN, 41_alu.md R132. -/
  | addImm (x : Nibble) (nn : Byte)
  /-- `LD Vx, Vy`, pattern 8XY0, 41_alu.md R133. -/
  | ldReg (x y : Nibble)
  /-- `OR Vx, Vy`, pattern 8XY1, 41_alu.md R134. -/
  | orReg (x y : Nibble)
  /-- `AND Vx, Vy`, pattern 8XY2, 41_alu.md R135. -/
  | andReg (x y : Nibble)
  /-- `XOR Vx, Vy`, pattern 8XY3, 41_alu.md R136. -/
  | xorReg (x y : Nibble)
  /-- `ADD Vx, Vy`, pattern 8XY4, 41_alu.md R137. -/
  | addReg (x y : Nibble)
  /-- `SUB Vx, Vy`, pattern 8XY5, 41_alu.md R138. -/
  | subReg (x y : Nibble)
  /-- `SHR Vx {, Vy}`, pattern 8XY6, 41_alu.md R139. -/
  | shr (x y : Nibble)
  /-- `SUBN Vx, Vy`, pattern 8XY7, 41_alu.md R140. -/
  | subnReg (x y : Nibble)
  /-- `SHL Vx {, Vy}`, pattern 8XYE, 41_alu.md R141. -/
  | shl (x y : Nibble)
  /-- `LD I, NNN`, pattern ANNN, 42_index_memory.md R161. -/
  | ldI (nnn : Addr12)
  /-- `JP V0, NNN`, pattern BNNN, 40_control_flow.md R118. -/
  | jpV0 (nnn : Addr12)
  /-- `RND Vx, NN`, pattern CXNN, 41_alu.md R142. -/
  | rnd (x : Nibble) (nn : Byte)
  /-- `DRW Vx, Vy, N`, pattern DXYN, 43_display.md R182. -/
  | drw (x y n : Nibble)
  /-- `SKP Vx`, pattern EX9E, 44_keypad_timers.md R191. -/
  | skp (x : Nibble)
  /-- `SKNP Vx`, pattern EXA1, 44_keypad_timers.md R192. -/
  | sknp (x : Nibble)
  /-- `LD Vx, DT`, pattern FX07, 44_keypad_timers.md R193. -/
  | ldVxDt (x : Nibble)
  /-- `LD Vx, K`, pattern FX0A, 44_keypad_timers.md R194. -/
  | ldVxK (x : Nibble)
  /-- `LD DT, Vx`, pattern FX15, 44_keypad_timers.md R195. -/
  | ldDtVx (x : Nibble)
  /-- `LD ST, Vx`, pattern FX18, 44_keypad_timers.md R196. -/
  | ldStVx (x : Nibble)
  /-- `ADD I, Vx`, pattern FX1E, 42_index_memory.md R162. -/
  | addI (x : Nibble)
  /-- `LD F, Vx`, pattern FX29, 42_index_memory.md R163. -/
  | ldF (x : Nibble)
  /-- `LD B, Vx`, pattern FX33, 42_index_memory.md R164. -/
  | ldB (x : Nibble)
  /-- `LD [I], Vx`, pattern FX55, 42_index_memory.md R165. -/
  | storeRegs (x : Nibble)
  /-- `LD Vx, [I]`, pattern FX65, 42_index_memory.md R166. -/
  | loadRegs (x : Nibble)
deriving DecidableEq, Repr

/-- The mnemonic of an instruction as spec/opcode_table.json spells it (30_encoding.md R91). -/
def Instr.mnemonic : Instr → String
  | .cls => "CLS"
  | .ret => "RET"
  | .jp _ => "JP_NNN"
  | .call _ => "CALL_NNN"
  | .seImm _ _ => "SE_Vx__NN"
  | .sneImm _ _ => "SNE_Vx__NN"
  | .seReg _ _ => "SE_Vx__Vy"
  | .sneReg _ _ => "SNE_Vx__Vy"
  | .ldImm _ _ => "LD_Vx__NN"
  | .addImm _ _ => "ADD_Vx__NN"
  | .ldReg _ _ => "LD_Vx__Vy"
  | .orReg _ _ => "OR_Vx__Vy"
  | .andReg _ _ => "AND_Vx__Vy"
  | .xorReg _ _ => "XOR_Vx__Vy"
  | .addReg _ _ => "ADD_Vx__Vy"
  | .subReg _ _ => "SUB_Vx__Vy"
  | .shr _ _ => "SHR_Vx____Vy"
  | .subnReg _ _ => "SUBN_Vx__Vy"
  | .shl _ _ => "SHL_Vx____Vy"
  | .ldI _ => "LD_I__NNN"
  | .jpV0 _ => "JP_V0__NNN"
  | .rnd _ _ => "RND_Vx__NN"
  | .drw _ _ _ => "DRW_Vx__Vy__N"
  | .skp _ => "SKP_Vx"
  | .sknp _ => "SKNP_Vx"
  | .ldVxDt _ => "LD_Vx__DT"
  | .ldVxK _ => "LD_Vx__K"
  | .ldDtVx _ => "LD_DT__Vx"
  | .ldStVx _ => "LD_ST__Vx"
  | .addI _ => "ADD_I__Vx"
  | .ldF _ => "LD_F__Vx"
  | .ldB _ => "LD_B__Vx"
  | .storeRegs _ => "LD__I___Vx"
  | .loadRegs _ => "LD_Vx___I"

end Sys2Proof
end

