-- ==== Sys2Proof/WellFormed.lean ====
section
/-! DEFINITION. Which words are instructions at all: the mask and match of each row of the opcode map (30_encoding.md R85). An operand of
`Instr` carries its range in its type (a nibble, a byte, 12 bits), so the one thing left to check is the fixed bits of a word; a word that
fails the check is illegal (R87). The map is written from the table of R85 and independently of the nested selection of R86
(Decode.lean); that the two agree is an obligation. -/

namespace Sys2Proof

/-- A row of the opcode map (30_encoding.md R85): a word w is the instruction iff `w & mask == value`. -/
structure OpcodeRow where
  mnemonic : String
  mask : Word
  value : Word
deriving DecidableEq, Repr

/-- The rows with OP = 0x0 (30_encoding.md R85). -/
def opcodeRowsZero : List OpcodeRow :=
  [⟨"CLS", 0xFFFF, 0x00E0⟩,
   ⟨"RET", 0xFFFF, 0x00EE⟩]

/-- The rows with OP = 0x1 to 0x5 and 0x9 (30_encoding.md R85). -/
def opcodeRowsFlow : List OpcodeRow :=
  [⟨"JP_NNN", 0xF000, 0x1000⟩,
   ⟨"CALL_NNN", 0xF000, 0x2000⟩,
   ⟨"SE_Vx__NN", 0xF000, 0x3000⟩,
   ⟨"SNE_Vx__NN", 0xF000, 0x4000⟩,
   ⟨"SE_Vx__Vy", 0xF00F, 0x5000⟩,
   ⟨"SNE_Vx__Vy", 0xF00F, 0x9000⟩]

/-- The rows with OP = 0x6, 0x7 and 0x8 (30_encoding.md R85). -/
def opcodeRowsAlu : List OpcodeRow :=
  [⟨"LD_Vx__NN", 0xF000, 0x6000⟩,
   ⟨"ADD_Vx__NN", 0xF000, 0x7000⟩,
   ⟨"LD_Vx__Vy", 0xF00F, 0x8000⟩,
   ⟨"OR_Vx__Vy", 0xF00F, 0x8001⟩,
   ⟨"AND_Vx__Vy", 0xF00F, 0x8002⟩,
   ⟨"XOR_Vx__Vy", 0xF00F, 0x8003⟩,
   ⟨"ADD_Vx__Vy", 0xF00F, 0x8004⟩,
   ⟨"SUB_Vx__Vy", 0xF00F, 0x8005⟩,
   ⟨"SHR_Vx____Vy", 0xF00F, 0x8006⟩,
   ⟨"SUBN_Vx__Vy", 0xF00F, 0x8007⟩,
   ⟨"SHL_Vx____Vy", 0xF00F, 0x800E⟩]

/-- The rows with OP = 0xA to 0xD (30_encoding.md R85). -/
def opcodeRowsSingle : List OpcodeRow :=
  [⟨"LD_I__NNN", 0xF000, 0xA000⟩,
   ⟨"JP_V0__NNN", 0xF000, 0xB000⟩,
   ⟨"RND_Vx__NN", 0xF000, 0xC000⟩,
   ⟨"DRW_Vx__Vy__N", 0xF000, 0xD000⟩]

/-- The rows with OP = 0xE (30_encoding.md R85). -/
def opcodeRowsKey : List OpcodeRow :=
  [⟨"SKP_Vx", 0xF0FF, 0xE09E⟩,
   ⟨"SKNP_Vx", 0xF0FF, 0xE0A1⟩]

/-- The rows with OP = 0xF (30_encoding.md R85). -/
def opcodeRowsMisc : List OpcodeRow :=
  [⟨"LD_Vx__DT", 0xF0FF, 0xF007⟩,
   ⟨"LD_Vx__K", 0xF0FF, 0xF00A⟩,
   ⟨"LD_DT__Vx", 0xF0FF, 0xF015⟩,
   ⟨"LD_ST__Vx", 0xF0FF, 0xF018⟩,
   ⟨"ADD_I__Vx", 0xF0FF, 0xF01E⟩,
   ⟨"LD_F__Vx", 0xF0FF, 0xF029⟩,
   ⟨"LD_B__Vx", 0xF0FF, 0xF033⟩,
   ⟨"LD__I___Vx", 0xF0FF, 0xF055⟩,
   ⟨"LD_Vx___I", 0xF0FF, 0xF065⟩]

/-- The opcode map, 34 rows (30_encoding.md R85). -/
def opcodeMap : List OpcodeRow :=
  opcodeRowsZero ++ opcodeRowsFlow ++ opcodeRowsAlu ++ opcodeRowsSingle ++ opcodeRowsKey ++ opcodeRowsMisc

/-- The word has the fixed bits of the row (30_encoding.md R85). -/
def OpcodeRow.matchesWord (r : OpcodeRow) (w : Word) : Bool := w &&& r.mask == r.value

/-- A word is well formed iff it matches a row of the map; any other word is illegal (30_encoding.md R87). -/
def wordWellFormed (w : Word) : Bool := opcodeMap.any (·.matchesWord w)

end Sys2Proof
end

