-- ==== Sys2Proof/Decode.lean ====
section
/-! DEFINITION. The decoder: the fields of 30_encoding.md R81, the nested selection of R86, the illegal words by name (R87), and the
encoder written from the patterns of R85. UNVERIFIED (unsafe): R85 marks 32 of the 34 patterns as general knowledge; notes/assumptions/6.md. -/

namespace Sys2Proof

/-- Why bytes are no instruction. One name per class of 30_encoding.md R87; `truncated` is for fewer than two bytes. -/
inductive DecodeError where
  /-- 0x0NNN other than 0x00E0 and 0x00EE (R87, R88). -/
  | illegalOp0
  /-- 5XYN with N not 0 (R87). -/
  | illegalOp5
  /-- 8XYN with N in 8 to D or F (R87). -/
  | illegalOp8
  /-- 9XYN with N not 0 (R87). -/
  | illegalOp9
  /-- EXNN with NN neither 9E nor A1 (R87). -/
  | illegalOpE
  /-- FXNN with NN none of the nine of R85 (R87). -/
  | illegalOpF
  /-- Fewer than two bytes: there is one instruction length (R80). -/
  | truncated
deriving DecidableEq, Repr

/-- OP = instr[15:12] (30_encoding.md R81). -/
def opField (w : Word) : Nibble := w.extractLsb' 12 4

/-- X = instr[11:8] (30_encoding.md R81). -/
def xField (w : Word) : Nibble := w.extractLsb' 8 4

/-- Y = instr[7:4] (30_encoding.md R81). -/
def yField (w : Word) : Nibble := w.extractLsb' 4 4

/-- N = instr[3:0] (30_encoding.md R81). -/
def nField (w : Word) : Nibble := w.extractLsb' 0 4

/-- NN = instr[7:0] (30_encoding.md R81). -/
def nnField (w : Word) : Byte := w.extractLsb' 0 8

/-- NNN = instr[11:0] (30_encoding.md R81). -/
def nnnField (w : Word) : Addr12 := w.extractLsb' 0 12

/-- OP = 0x0: the match is on all 16 bits (30_encoding.md R86, R88). -/
def decodeOp0 (w : Word) : Except DecodeError Instr :=
  if w = 0x00E0 then .ok .cls
  else if w = 0x00EE then .ok .ret
  else .error .illegalOp0

/-- OP = 0x8: secondary dispatch on N (30_encoding.md R86). -/
def decodeOp8 (x y n : Nibble) : Except DecodeError Instr :=
  match n with
  | 0x0 => .ok (.ldReg x y)
  | 0x1 => .ok (.orReg x y)
  | 0x2 => .ok (.andReg x y)
  | 0x3 => .ok (.xorReg x y)
  | 0x4 => .ok (.addReg x y)
  | 0x5 => .ok (.subReg x y)
  | 0x6 => .ok (.shr x y)
  | 0x7 => .ok (.subnReg x y)
  | 0xE => .ok (.shl x y)
  | _ => .error .illegalOp8

/-- OP = 0xE: secondary dispatch on NN (30_encoding.md R86). -/
def decodeOpE (x : Nibble) (nn : Byte) : Except DecodeError Instr :=
  match nn with
  | 0x9E => .ok (.skp x)
  | 0xA1 => .ok (.sknp x)
  | _ => .error .illegalOpE

/-- OP = 0xF: secondary dispatch on NN (30_encoding.md R86). -/
def decodeOpF (x : Nibble) (nn : Byte) : Except DecodeError Instr :=
  match nn with
  | 0x07 => .ok (.ldVxDt x)
  | 0x0A => .ok (.ldVxK x)
  | 0x15 => .ok (.ldDtVx x)
  | 0x18 => .ok (.ldStVx x)
  | 0x1E => .ok (.addI x)
  | 0x29 => .ok (.ldF x)
  | 0x33 => .ok (.ldB x)
  | 0x55 => .ok (.storeRegs x)
  | 0x65 => .ok (.loadRegs x)
  | _ => .error .illegalOpF

/-- `Decode(instr)` of 30_encoding.md R86. -/
def decode (w : Word) : Except DecodeError Instr :=
  match opField w with
  | 0x0 => decodeOp0 w
  | 0x1 => .ok (.jp (nnnField w))
  | 0x2 => .ok (.call (nnnField w))
  | 0x3 => .ok (.seImm (xField w) (nnField w))
  | 0x4 => .ok (.sneImm (xField w) (nnField w))
  | 0x5 => if nField w = 0 then .ok (.seReg (xField w) (yField w)) else .error .illegalOp5
  | 0x6 => .ok (.ldImm (xField w) (nnField w))
  | 0x7 => .ok (.addImm (xField w) (nnField w))
  | 0x8 => decodeOp8 (xField w) (yField w) (nField w)
  | 0x9 => if nField w = 0 then .ok (.sneReg (xField w) (yField w)) else .error .illegalOp9
  | 0xA => .ok (.ldI (nnnField w))
  | 0xB => .ok (.jpV0 (nnnField w))
  | 0xC => .ok (.rnd (xField w) (nnField w))
  | 0xD => .ok (.drw (xField w) (yField w) (nField w))
  | 0xE => decodeOpE (xField w) (nnField w)
  | _ => decodeOpF (xField w) (nnField w)

/-- The big-endian word of two bytes, the byte at the lower address first (20_memory.md R55). -/
def wordOfBytes (hi lo : Byte) : Word := hi ++ lo

/-- Decoding a byte sequence: the first instruction and the bytes after it (30_encoding.md R80). -/
def decodeBytes : List Byte → Except DecodeError (Instr × List Byte)
  | hi :: lo :: rest =>
    match decode (wordOfBytes hi lo) with
    | .ok i => .ok (i, rest)
    | .error e => .error e
  | _ => .error .truncated

/-- The word of an instruction, written from the patterns of 30_encoding.md R85. -/
def encode : Instr → Word
  | .cls => 0x00E0
  | .ret => 0x00EE
  | .jp nnn => 0x1#4 ++ nnn
  | .call nnn => 0x2#4 ++ nnn
  | .seImm x nn => 0x3#4 ++ x ++ nn
  | .sneImm x nn => 0x4#4 ++ x ++ nn
  | .seReg x y => 0x5#4 ++ x ++ y ++ 0x0#4
  | .sneReg x y => 0x9#4 ++ x ++ y ++ 0x0#4
  | .ldImm x nn => 0x6#4 ++ x ++ nn
  | .addImm x nn => 0x7#4 ++ x ++ nn
  | .ldReg x y => 0x8#4 ++ x ++ y ++ 0x0#4
  | .orReg x y => 0x8#4 ++ x ++ y ++ 0x1#4
  | .andReg x y => 0x8#4 ++ x ++ y ++ 0x2#4
  | .xorReg x y => 0x8#4 ++ x ++ y ++ 0x3#4
  | .addReg x y => 0x8#4 ++ x ++ y ++ 0x4#4
  | .subReg x y => 0x8#4 ++ x ++ y ++ 0x5#4
  | .shr x y => 0x8#4 ++ x ++ y ++ 0x6#4
  | .subnReg x y => 0x8#4 ++ x ++ y ++ 0x7#4
  | .shl x y => 0x8#4 ++ x ++ y ++ 0xE#4
  | .ldI nnn => 0xA#4 ++ nnn
  | .jpV0 nnn => 0xB#4 ++ nnn
  | .rnd x nn => 0xC#4 ++ x ++ nn
  | .drw x y n => 0xD#4 ++ x ++ y ++ n
  | .skp x => 0xE#4 ++ x ++ 0x9E#8
  | .sknp x => 0xE#4 ++ x ++ 0xA1#8
  | .ldVxDt x => 0xF#4 ++ x ++ 0x07#8
  | .ldVxK x => 0xF#4 ++ x ++ 0x0A#8
  | .ldDtVx x => 0xF#4 ++ x ++ 0x15#8
  | .ldStVx x => 0xF#4 ++ x ++ 0x18#8
  | .addI x => 0xF#4 ++ x ++ 0x1E#8
  | .ldF x => 0xF#4 ++ x ++ 0x29#8
  | .ldB x => 0xF#4 ++ x ++ 0x33#8
  | .storeRegs x => 0xF#4 ++ x ++ 0x55#8
  | .loadRegs x => 0xF#4 ++ x ++ 0x65#8

/-- A table word as the core stores it: 16 bits, the more significant byte at the lower address (20_memory.md R55). The bits the table
does not give (at and above `nbits`) are 0. -/
def tableWordBytes (nbits w : Nat) : List Byte :=
  let v := w % 2 ^ nbits
  [BitVec.ofNat 8 (v / 256), BitVec.ofNat 8 v]

/-- What the decoder reads from an instruction whose bits, as spec/opcode_table.json numbers them, are `w`. -/
def decodeTableWord (nbits w : Nat) : Option Instr :=
  match decodeBytes (tableWordBytes nbits w) with
  | .ok (i, _) => some i
  | .error _ => none

end Sys2Proof
end

