-- ==== Sys2Proof/Config.lean ====
section
/-! DEFINITION. What an implementation fixes (00_scope.md R5 to R7) and the free values the environment draws (00_scope.md R9).
The default of the font table (00_scope.md R8) stands in Machine/Font.lean. -/

namespace Sys2Proof

/-- A font table: 16 glyphs of 5 bytes, glyph by glyph, top row first (00_scope.md R8; 20_memory.md R52). -/
abbrev FontTable := Vector Byte 80

/-- The static configuration of the core: the two Boolean parameters (00_scope.md R7; ports `cfg_shift_uses_vy` and `cfg_index_increment`
of 60_exceptions.md R232) and the table parameter (R8). Nothing the core or the host does changes them (10_state.md R34).
DESIGN CHOICE (safe): the state carries them, so that every statement covers every setting and every font; notes/assumptions/2.md. -/
structure Config where
  /-- `SHIFT_USES_VY`: the shifts read `V[Y]` instead of `V[X]`. -/
  shiftUsesVy : Bool
  /-- `INDEX_INCREMENT`: the bulk transfers advance `I` by X + 1. -/
  indexIncrement : Bool
  /-- `FONT[0..79]`: what reset puts at 0x050 to 0x09F (00_scope.md R8; 20_memory.md R53, "A model should take `FONT` as a configuration
  table"). -/
  font : FontTable
deriving DecidableEq, Repr

/-- `MEM_SIZE` (00_scope.md R5). -/
def Config.memSize : Nat := 4096

/-- `FONT_BASE` (00_scope.md R5). -/
def Config.fontBase : Nat := 0x50

/-- `GLYPH_BYTES` (00_scope.md R5). -/
def Config.glyphBytes : Nat := 5

/-- `PROG_BASE` (00_scope.md R5). -/
def Config.progBase : Nat := 0x200

/-- `PROG_CAP` (00_scope.md R5). -/
def Config.progCap : Nat := 3584

/-- `W` (00_scope.md R6). DESIGN CHOICE (safe): the value of this hardware, not an argument; notes/assumptions/12.md. -/
def Config.width : Nat := 64

/-- `H` (00_scope.md R6). DESIGN CHOICE (safe): as `Config.width`. -/
def Config.height : Nat := 32

/-- FREE VALUE: the keypad level the environment presents to the n-th cycle (10_state.md R31). It has no body, so a proof
that uses it holds for every sequence of keypad levels. DESIGN CHOICE (safe): notes/assumptions/1.md. -/
opaque Config.keysIn : Nat → Word

/-- FREE VALUE: the random byte the environment presents to the n-th cycle (10_state.md R32), "a free input under no law".
DESIGN CHOICE (safe): notes/assumptions/1.md. -/
opaque Config.rndIn : Nat → Byte

end Sys2Proof
end

