-- ==== Sys2Proof/Machine/Font.lean ====
section
/-! DEFINITION. The default of the parameter `FONT[0..79]` (00_scope.md R8; 20_memory.md R53), the default configuration, and the content of
every memory cell after reset under a given font (20_memory.md R51). UNVERIFIED: R53 marks the 80 default bytes as general knowledge;
notes/assumptions/4.md. -/

namespace Sys2Proof.Machine

/-- Glyphs 0 to 7, top row first (20_memory.md R53). -/
def fontLow : List Byte :=
  [0xF0, 0x90, 0x90, 0x90, 0xF0] ++ [0x20, 0x60, 0x20, 0x20, 0x70] ++
  [0xF0, 0x10, 0xF0, 0x80, 0xF0] ++ [0xF0, 0x10, 0xF0, 0x10, 0xF0] ++
  [0x90, 0x90, 0xF0, 0x10, 0x10] ++ [0xF0, 0x80, 0xF0, 0x10, 0xF0] ++
  [0xF0, 0x80, 0xF0, 0x90, 0xF0] ++ [0xF0, 0x10, 0x20, 0x40, 0x40]

/-- Glyphs 8 to F, top row first (20_memory.md R53). -/
def fontHigh : List Byte :=
  [0xF0, 0x90, 0xF0, 0x90, 0xF0] ++ [0xF0, 0x90, 0xF0, 0x10, 0xF0] ++
  [0xF0, 0x90, 0xF0, 0x90, 0x90] ++ [0xE0, 0x90, 0xE0, 0x90, 0xE0] ++
  [0xF0, 0x80, 0x80, 0x80, 0xF0] ++ [0xE0, 0x90, 0x90, 0x90, 0xE0] ++
  [0xF0, 0x80, 0xF0, 0x80, 0xF0] ++ [0xF0, 0x80, 0xF0, 0x80, 0x80]

/-- The default value of `FONT[0..79]` (20_memory.md R53). No instruction and no operation reads it: they read the font of the
configuration. -/
def defaultFont : FontTable := ⟨(fontLow ++ fontHigh).toArray, rfl⟩

/-- Every parameter at its default (00_scope.md R7, R8). -/
def defaultConfig : Config := { shiftUsesVy := false, indexIncrement := false, font := defaultFont }

/-- The content of cell `a` after reset under the font `f`: `FONT` from 0x050 to 0x09F, zero elsewhere (10_state.md R38; 20_memory.md R51,
R52). It is what an address that memory does not list reads as. -/
def resetByte (f : FontTable) (a : Nat) : Byte :=
  if Config.fontBase ≤ a then f.toList.getD (a - Config.fontBase) 0 else 0

end Sys2Proof.Machine
end

