-- ==== Sys2Proof/Machine/State.lean ====
section
/-! DEFINITION. The architectural state of the core (10_state.md), the reasons a step can stop, and the state after reset
(10_state.md R38; 70_reset_and_hazards.md R250, R252). Plain data; INVENTORY.md lists every field with its rule. -/

namespace Sys2Proof.Machine

/-- The causes a fault records (60_exceptions.md R213). `FaultCause.code` in Machine/Ops.lean gives the 3-bit code of each. -/
inductive FaultCause where
  /-- Code 0: no fault. -/
  | none
  /-- Code 1: the fetched word matches no row of the opcode map. -/
  | illegalInstruction
  /-- Code 2: an access above address 4095. -/
  | outOfRangeAccess
  /-- Code 3: a push with `SP` = 16. -/
  | stackOverflow
  /-- Code 4: a pop with `SP` = 0. -/
  | stackUnderflow
  /-- Code 5: `V[X]` above 15 used as a key index. -/
  | keyIndexOutOfRange
deriving DecidableEq, Repr

/-- The fault latch `FAULT` (10_state.md R33). -/
structure FaultLatch where
  valid : Bool
  cause : FaultCause
  pc : Word
  instr : Word
deriving DecidableEq, Repr

/-- The latch after reset: `valid` = 0 and every field 0 (10_state.md R33, R38). -/
def FaultLatch.clear : FaultLatch := { valid := false, cause := .none, pc := 0, instr := 0 }

/-- What the host presents on the inputs for one cycle: `KEYS` and `RND` (10_state.md R31, R32). -/
structure Inputs where
  keys : Word
  rnd : Byte
deriving DecidableEq, Repr

/-- The framebuffer (10_state.md R29): row y is entry y, and column x is bit x of its row; 1 is on. -/
abbrev FrameBuffer := Vector (BitVec 64) 32

/-- Memory (10_state.md R30): the cells that differ from their reset content, addresses strictly rising (`Memory.wf`, Machine/Ops.lean). -/
abbrev Memory := List Host.Cell

/-- The state of the core (10_state.md), with the configuration inputs and the environment's input stream beside it. -/
structure State where
  /-- `V[0]` to `V[15]` (R20); `V[15]` is `VF` (R21). -/
  v : Vector Byte 16
  /-- The index register `I` (R24). -/
  i : Word
  /-- The program counter `PC` (R22). -/
  pc : Word
  /-- The delay timer `DT` (R25). -/
  dt : Byte
  /-- The sound timer `ST` (R26). -/
  st : Byte
  /-- The stack pointer `SP`: entries in use, 0 to 16 (R27). -/
  sp : Fin 17
  /-- `STACK[0..15]` (R27). -/
  stack : Vector Word 16
  /-- The instruction register `IR` (R28). -/
  ir : Word
  /-- The framebuffer `FB` (R29). -/
  fb : FrameBuffer
  /-- The memory `MEM` (R30). -/
  mem : Memory
  /-- The fault latch `FAULT` (R33). -/
  fault : FaultLatch
  /-- The static configuration, `FONT` among it (R34; 60_exceptions.md R232), no state of the core. -/
  cfg : Config
  /-- MODEL'S OWN: the inputs the host has already decided to present to the next cycles, next first (notes/assumptions/1.md). -/
  inputs : List Inputs
  /-- MODEL'S OWN: how many cycles have drawn their inputs; the argument of the free values (notes/assumptions/1.md). -/
  drawn : Nat
deriving DecidableEq, Repr

/-- Why a step answers a fault. -/
inductive Fault where
  /-- Raised by `step` alone: a cycle was requested of a core that a fault has stopped (60_exceptions.md R217: it "returns at once and
  changes nothing, until Reset"; "A model should make the faulted state stuck and non-final"). Safe: the core does nothing either.
  The fault entry itself is a next state with the latch set. -/
  | stopped (cause : FaultCause)
deriving DecidableEq, Repr

/-- Why a step answers a refusal. -/
inductive Refusal where
  /-- Raised by an arm of `exec` whose instruction has no meaning yet, with the table's mnemonic. Safe: nothing can be proved of it.
  No arm uses it: every instruction has its meaning. -/
  | notModelled (mnemonic : String)
deriving DecidableEq, Repr

/-- The state after reset and after construction (10_state.md R38; 70_reset_and_hazards.md R250, R252). Memory with nothing listed is the
reset memory: zero but for the font. The configuration is at the defaults of 00_scope.md R7 and R8 (DESIGN CHOICE, notes/assumptions/2.md);
`inputs` and `drawn` are the model's own (DESIGN CHOICE, notes/assumptions/1.md). -/
def State.reset : State where
  v := Vector.replicate 16 0
  i := 0
  pc := 0x0200
  dt := 0
  st := 0
  sp := 0
  stack := Vector.replicate 16 0
  ir := 0
  fb := Vector.replicate 32 0
  mem := []
  fault := FaultLatch.clear
  cfg := defaultConfig
  inputs := []
  drawn := 0

end Sys2Proof.Machine
end

