-- ==== Sys2Proof/Machine/Ops.lean ====
section
/-! DEFINITION. The named operations over memory, registers, stack, inputs, timers and the fault latch: the pseudocode primitives of
00_scope.md R11, and taking a fault (60_exceptions.md R216) as one shared operation. There is no return from a fault (R218). -/

namespace Sys2Proof.Machine

/-! ### Memory (20_memory.md) -/

/-- The byte at an address: the listed value, or the reset content under the font `f` (20_memory.md R60, R62 (c)). -/
def Memory.read (f : FontTable) : Memory → Nat → Byte
  | [], a => resetByte f a
  | (k, b) :: m, a => if k = a then b else Memory.read f m a

/-- Memory without an entry for `a`. -/
def Memory.erase (m : Memory) (a : Nat) : Memory := m.filter (fun c => c.1 != a)

/-- Memory with an entry for `a` put before the first greater address. -/
def Memory.insert (a : Nat) (b : Byte) : Memory → Memory
  | [] => [(a, b)]
  | (k, c) :: m => if a < k then (a, b) :: (k, c) :: m else (k, c) :: Memory.insert a b m

/-- Storing one byte, in the canonical form: a value that equals the reset content is not listed (20_memory.md R60). -/
def Memory.write (f : FontTable) (m : Memory) (a : Nat) (b : Byte) : Memory :=
  if b = resetByte f a then Memory.erase m a else Memory.insert a b (Memory.erase m a)

/-- Storing bytes at ascending addresses (20_memory.md R56). -/
def Memory.writeBytes (f : FontTable) (m : Memory) (a : Nat) : List Byte → Memory
  | [] => m
  | b :: bs => Memory.writeBytes f (Memory.write f m a b) (a + 1) bs

/-- The `n` bytes at ascending addresses from `a` (20_memory.md R56). -/
def Memory.readBytes (f : FontTable) (m : Memory) (a : Nat) : Nat → List Byte
  | 0 => []
  | n + 1 => Memory.read f m a :: Memory.readBytes f m (a + 1) n

/-- The canonical form: addresses strictly rising and in the space of 20_memory.md R50, no entry equal to the reset content. -/
abbrev Memory.wf (f : FontTable) (m : Memory) : Prop :=
  List.Pairwise (fun c d : Host.Cell => c.1 < d.1) m ∧ ∀ c ∈ m, c.1 < Config.memSize ∧ c.2 ≠ resetByte f c.1

/-- The bounds check of 20_memory.md R57 for `n` bytes from `a`: no byte above 4095, the sums on unbounded integers (92_eei_decisions.md
D14); an access of no byte cannot fail (D16). -/
abbrev inRange (a n : Nat) : Prop := n = 0 ∨ a + n ≤ Config.memSize

/-- The byte at an address of the state's memory. -/
def State.readByte (s : State) (a : Nat) : Byte := Memory.read s.cfg.font s.mem a

/-- `MemRead` of a whole transfer (00_scope.md R11): the bytes, or none where an address is out of range (20_memory.md R57). -/
def State.load (s : State) (a n : Nat) : Option (List Byte) :=
  if inRange a n then some (Memory.readBytes s.cfg.font s.mem a n) else none

/-- `MemWrite` of a whole transfer (00_scope.md R11): checked as a whole before the first byte moves (20_memory.md R57;
92_eei_decisions.md D17). -/
def State.store (s : State) (a : Nat) (bs : List Byte) : Option State :=
  if inRange a bs.length then some { s with mem := Memory.writeBytes s.cfg.font s.mem a bs } else none

/-! ### Registers (10_state.md R20 to R26) -/

/-- `V[x]` (10_state.md R20). -/
def State.readV (s : State) (x : Nibble) : Byte := s.v[x.toNat]'x.isLt

/-- `V[x] <- b` (10_state.md R20). -/
def State.writeV (s : State) (x : Nibble) (b : Byte) : State := { s with v := s.v.set x.toNat b x.isLt }

/-- The number of the flag register `VF` (10_state.md R21). -/
def flagReg : Nibble := 0xF

/-- `PC <- a` (10_state.md R22). -/
def State.setPc (s : State) (a : Word) : State := { s with pc := a }

/-- `I <- a` (10_state.md R24). -/
def State.setI (s : State) (a : Word) : State := { s with i := a }

/-- `DT <- b` (10_state.md R25). -/
def State.setDt (s : State) (b : Byte) : State := { s with dt := b }

/-- `ST <- b` (10_state.md R26). -/
def State.setSt (s : State) (b : Byte) : State := { s with st := b }

/-- `FB <- f` (10_state.md R29). -/
def State.setFb (s : State) (f : FrameBuffer) : State := { s with fb := f }

/-- Skips the next instruction when the condition holds: a further 2 on `PC`, mod 65536 (10_state.md R23; 40_control_flow.md R110). -/
def State.skipIf (s : State) (c : Bool) : State := s.setPc (if c then s.pc + 2 else s.pc)

/-! ### Call stack (10_state.md R27) -/

/-- Push: writes `STACK[SP]`, then increments `SP`; none when the stack is full (40_control_flow.md R113). -/
def State.push (s : State) (a : Word) : Option State :=
  if h : s.sp.val < 16 then
    some { s with stack := s.stack.set s.sp.val a h, sp := ⟨s.sp.val + 1, Nat.succ_lt_succ h⟩ }
  else none

/-- Pop: decrements `SP`, then reads `STACK[SP]`; none when the stack is empty (40_control_flow.md R111). The slot keeps its content. -/
def State.pop (s : State) : Option (Word × State) :=
  if h : s.sp = 0 then none
  else some (s.stack[(s.sp.pred h).val]'(s.sp.pred h).isLt, { s with sp := (s.sp.pred h).castSucc })

/-! ### Inputs of the cycle (10_state.md R31, R32; 60_exceptions.md R211) -/

/-- `KEYS` of this cycle: what the host has decided to present, else the free value of this cycle (10_state.md R31). -/
def State.keys (s : State) : Word :=
  match s.inputs with
  | [] => Config.keysIn s.drawn
  | k :: _ => k.keys

/-- `RND` of this cycle (10_state.md R32). -/
def State.rnd (s : State) : Byte :=
  match s.inputs with
  | [] => Config.rndIn s.drawn
  | k :: _ => k.rnd

/-- The end of a cycle that sampled its inputs: the next cycle samples anew (10_state.md R31, R32). -/
def State.nextInput (s : State) : State := { s with inputs := s.inputs.tail, drawn := s.drawn + 1 }

/-- `KEYS[k]`: key k is pressed (10_state.md R31). -/
def keyDown (keys : Word) (k : Nat) : Bool := keys.getLsbD k

/-- The least pressed key, scanning upward (44_keypad_timers.md R194). UNVERIFIED (unsafe where several keys are pressed): the choice
is the spec's decision D10; notes/assumptions/8.md. -/
def leastKey (keys : Word) : Option Nat := (List.range 16).find? (keyDown keys)

/-! ### Framebuffer (43_display.md R180) -/

/-- Cell (x, y), the coordinates folded modulo W and H: "a drawn pixel's position is always folded into bounds" (43_display.md R180). -/
def FrameBuffer.pixel (f : FrameBuffer) (x y : Nat) : Bool :=
  (f[y % Config.height]'(Nat.mod_lt y (by decide))).getLsbD (x % Config.width)

/-- XOR-toggles cell (x, y), the coordinates folded (43_display.md R182). -/
def FrameBuffer.flipPixel (f : FrameBuffer) (x y : Nat) : FrameBuffer :=
  f.set (y % Config.height)
    (f[y % Config.height]'(Nat.mod_lt y (by decide)) ^^^ BitVec.twoPow 64 (x % Config.width))
    (Nat.mod_lt y (by decide))

/-- Every cell off (43_display.md R181). -/
def FrameBuffer.blank : FrameBuffer := Vector.replicate 32 0

/-- One bit of a sprite byte (43_display.md R182): bit 7 - c is column c from the left. A set bit toggles its cell, and a cell that was on
sets the collision. UNVERIFIED (unsafe): the bit and row order, which the rule marks as general knowledge; notes/assumptions/7.md. -/
def drawBit (b : Byte) (x y : Nat) (d : FrameBuffer × Bool) (c : Nat) : FrameBuffer × Bool :=
  if b.getLsbD (7 - c) then (d.1.flipPixel (x + c) y, d.2 || d.1.pixel (x + c) y) else d

/-- One row of a sprite, columns left to right (43_display.md R182). -/
def drawRow (b : Byte) (x y : Nat) (d : FrameBuffer × Bool) : FrameBuffer × Bool :=
  (List.range 8).foldl (drawBit b x y) d

/-- The rows of a sprite, top to bottom (43_display.md R182): the framebuffer and whether a cell that was on was turned off. -/
def drawRows (x : Nat) : Nat → List Byte → FrameBuffer × Bool → FrameBuffer × Bool
  | _, [], d => d
  | y, b :: bs, d => drawRows x (y + 1) bs (drawRow b x y d)

/-! ### Timers (60_exceptions.md R222) -/

/-- One count down, holding at zero (60_exceptions.md R222). -/
def decay (t : Byte) : Byte := if t = 0 then 0 else t - 1

/-- The tick, step 4 of a cycle (60_exceptions.md R211, R222). -/
def State.tick (s : State) : State := { s with dt := decay s.dt, st := decay s.st }

/-! ### Fetch (60_exceptions.md R211, steps 1 and 2) -/

/-- The word at `PC`, big-endian, or none when one of its bytes is out of range (20_memory.md R55, R57). -/
def State.fetch (s : State) : Option Word :=
  if inRange s.pc.toNat 2 then some (wordOfBytes (s.readByte s.pc.toNat) (s.readByte (s.pc.toNat + 1))) else none

/-- After the fetch of `w`: `IR` holds the word and `PC` is advanced by 2 (60_exceptions.md R211; 10_state.md R23). -/
def State.fetched (s : State) (w : Word) : State := { s with ir := w, pc := s.pc + 2 }

/-! ### Faults (60_exceptions.md R213 to R217) -/

/-- The code a cause has in `FAULT.cause` (60_exceptions.md R213). -/
def FaultCause.code : FaultCause → BitVec 3
  | .none => 0
  | .illegalInstruction => 1
  | .outOfRangeAccess => 2
  | .stackOverflow => 3
  | .stackUnderflow => 4
  | .keyIndexOutOfRange => 5

/-- Fault entry (60_exceptions.md R216): everything but `FAULT` keeps its value; the latch takes the cause, the address of the faulting
instruction and the fetched word (0 for a fetch fault). -/
def State.takeFault (s : State) (c : FaultCause) (pc0 instr : Word) : State :=
  { s with fault := { valid := true, cause := c, pc := pc0, instr := instr } }

/-- `raise` inside an instruction's rule (00_scope.md R11). While an instruction executes, `PC` is its address plus 2 and `IR` is its word,
so the latch takes `PC - 2` and `IR`. The cycle then discards what it wrote before (`cycle`, Machine/Cycle.lean). -/
def State.raise (s : State) (c : FaultCause) : Host.Outcome State Fault Refusal :=
  .next (s.takeFault c (s.pc - 2) s.ir)

end Sys2Proof.Machine
end

