-- ==== Sys2Proof/Machine/Flags.lean ====
section
/-! DEFINITION. Every flag computation of the core (10_state.md R21): the six flag-writing instructions write 0x01 or 0x00 to `VF`, after
the result (30_encoding.md R84). -/

namespace Sys2Proof.Machine

/-- The byte a flag writes (10_state.md R21). -/
def flagByte (c : Bool) : Byte := if c then 1 else 0

/-- The carry of the two-register add: the exact sum exceeds 255 (41_alu.md R137). -/
def carryOut (a b : Byte) : Bool := decide (255 < a.toNat + b.toNat)

/-- The flag of the two subtracts: the minuend is strictly greater (41_alu.md R138, R140; 93_implementation_defined.md U9). -/
def strictlyGreater (a b : Byte) : Bool := decide (b.toNat < a.toNat)

/-- The bit a right shift drops (41_alu.md R139). -/
def lowBit (a : Byte) : Bool := a.getLsbD 0

/-- The bit a left shift drops (41_alu.md R141). -/
def highBit (a : Byte) : Bool := a.getLsbD 7

/-- The result to `V[X]` first, the flag to `VF` last (30_encoding.md R84). UNVERIFIED (unsafe where X or Y is 15): the
order is the spec's decision D7; notes/assumptions/5.md. -/
def writeResultAndFlag (s : State) (x : Nibble) (result : Byte) (flag : Bool) : State :=
  (s.writeV x result).writeV flagReg (flagByte flag)

end Sys2Proof.Machine
end

