-- ==== Sys2Proof/Machine/Operands.lean ====
section
/-! DEFINITION. The operand forms of 30_encoding.md R82 and R83: addresses, immediates, register operands, and the multi-register operand
of the bulk transfers. Operands are latched before anything is written (R84): every meaning reads them from the state it starts with. -/

namespace Sys2Proof.Machine

/-- `zext_16(NNN)` (30_encoding.md R83). -/
def addrOperand (nnn : Addr12) : Word := nnn.setWidth 16

/-- A register operand in 16-bit arithmetic, zero-extended (30_encoding.md R83). -/
def wideOperand (b : Byte) : Word := b.setWidth 16

/-- The source of a shift (41_alu.md R139, R141): `V[Y]` when `SHIFT_USES_VY`, else `V[X]`. -/
def shiftSource (s : State) (x y : Nibble) : Byte := if s.cfg.shiftUsesVy then s.readV y else s.readV x

/-- `V[0]` to `V[X]`, ascending (42_index_memory.md R165). -/
def regsThrough (s : State) (x : Nibble) : List Byte := s.v.toList.take (x.toNat + 1)

/-- The register file with `bs[k]` in register k for k = 0 to X; the registers above X keep their values (42_index_memory.md R166). -/
def loadedRegs (v : Vector Byte 16) (x : Nibble) (bs : List Byte) : Vector Byte 16 :=
  Vector.ofFn fun k : Fin 16 => if k.val ≤ x.toNat then bs.getD k.val 0 else v[k]

/-- `V[k] <- bs[k]` for k = 0 to X (42_index_memory.md R166). -/
def writeRegsThrough (s : State) (x : Nibble) (bs : List Byte) : State := { s with v := loadedRegs s.v x bs }

/-- `I` after a bulk transfer (42_index_memory.md R165, R166): advanced by X + 1 when `INDEX_INCREMENT`, else unchanged.
UNVERIFIED (unsafe where INDEX_INCREMENT is set): the amount, which the rule marks as general knowledge; notes/assumptions/9.md. -/
def advanceIndex (s : State) (x : Nibble) : State :=
  s.setI (if s.cfg.indexIncrement then s.i + x.setWidth 16 + 1 else s.i)

/-- The glyph address of `LD F, Vx` (42_index_memory.md R163). -/
def glyphAddress (b : Byte) : Word := BitVec.ofNat 16 (b.toNat * Config.glyphBytes + Config.fontBase)

/-- The three decimal digits of `LD B, Vx`, hundreds first (42_index_memory.md R164). -/
def bcdDigits (b : Byte) : List Byte :=
  [BitVec.ofNat 8 (b.toNat / 100), BitVec.ofNat 8 (b.toNat / 10 % 10), BitVec.ofNat 8 (b.toNat % 10)]

end Sys2Proof.Machine
end

