-- ==== Sys2Proof/Machine/Alu.lean ====
section
/-! DEFINITION. The register, arithmetic, logic, shift and random instructions (41_alu.md). None can fault; `PC` stays at the advanced
value (R130). -/

namespace Sys2Proof.Machine

/-- LD Vx, NN (R131). -/
def execLdImm (x : Nibble) (nn : Byte) (s : State) : Host.Outcome State Fault Refusal :=
  .next (s.writeV x nn)

/-- ADD Vx, NN (R132): modulo 256, `VF` not written as a flag. -/
def execAddImm (x : Nibble) (nn : Byte) (s : State) : Host.Outcome State Fault Refusal :=
  .next (s.writeV x (s.readV x + nn))

/-- LD Vx, Vy (R133). -/
def execLdReg (x y : Nibble) (s : State) : Host.Outcome State Fault Refusal :=
  .next (s.writeV x (s.readV y))

/-- OR Vx, Vy (R134). -/
def execOrReg (x y : Nibble) (s : State) : Host.Outcome State Fault Refusal :=
  .next (s.writeV x (s.readV x ||| s.readV y))

/-- AND Vx, Vy (R135). -/
def execAndReg (x y : Nibble) (s : State) : Host.Outcome State Fault Refusal :=
  .next (s.writeV x (s.readV x &&& s.readV y))

/-- XOR Vx, Vy (R136). -/
def execXorReg (x y : Nibble) (s : State) : Host.Outcome State Fault Refusal :=
  .next (s.writeV x (s.readV x ^^^ s.readV y))

/-- ADD Vx, Vy (R137). -/
def execAddReg (x y : Nibble) (s : State) : Host.Outcome State Fault Refusal :=
  .next (writeResultAndFlag s x (s.readV x + s.readV y) (carryOut (s.readV x) (s.readV y)))

/-- SUB Vx, Vy (R138). -/
def execSubReg (x y : Nibble) (s : State) : Host.Outcome State Fault Refusal :=
  .next (writeResultAndFlag s x (s.readV x - s.readV y) (strictlyGreater (s.readV x) (s.readV y)))

/-- SHR Vx {, Vy} (R139). -/
def execShr (x y : Nibble) (s : State) : Host.Outcome State Fault Refusal :=
  .next (writeResultAndFlag s x (shiftSource s x y >>> 1) (lowBit (shiftSource s x y)))

/-- SUBN Vx, Vy (R140). -/
def execSubnReg (x y : Nibble) (s : State) : Host.Outcome State Fault Refusal :=
  .next (writeResultAndFlag s x (s.readV y - s.readV x) (strictlyGreater (s.readV y) (s.readV x)))

/-- SHL Vx {, Vy} (R141). -/
def execShl (x y : Nibble) (s : State) : Host.Outcome State Fault Refusal :=
  .next (writeResultAndFlag s x (shiftSource s x y <<< 1) (highBit (shiftSource s x y)))

/-- RND Vx, NN (R142). -/
def execRnd (x : Nibble) (nn : Byte) (s : State) : Host.Outcome State Fault Refusal :=
  .next (s.writeV x (s.rnd &&& nn))

end Sys2Proof.Machine
end

