-- ==== Sys2Proof/Machine/Control.lean ====
section
/-! DEFINITION. The control-flow instructions (40_control_flow.md). When a meaning starts, `PC` already holds the address of the
instruction plus 2 (R110). -/

namespace Sys2Proof.Machine

/-- RET (R111). -/
def execRet (s : State) : Host.Outcome State Fault Refusal :=
  match s.pop with
  | none => s.raise .stackUnderflow
  | some (target, t) => .next (t.setPc target)

/-- JP NNN (R112). -/
def execJp (nnn : Addr12) (s : State) : Host.Outcome State Fault Refusal :=
  .next (s.setPc (addrOperand nnn))

/-- CALL NNN (R113): the value pushed is the already advanced `PC`. -/
def execCall (nnn : Addr12) (s : State) : Host.Outcome State Fault Refusal :=
  match s.push s.pc with
  | none => s.raise .stackOverflow
  | some t => .next (t.setPc (addrOperand nnn))

/-- SE Vx, NN (R114). -/
def execSeImm (x : Nibble) (nn : Byte) (s : State) : Host.Outcome State Fault Refusal :=
  .next (s.skipIf (s.readV x == nn))

/-- SNE Vx, NN (R115). -/
def execSneImm (x : Nibble) (nn : Byte) (s : State) : Host.Outcome State Fault Refusal :=
  .next (s.skipIf (s.readV x != nn))

/-- SE Vx, Vy (R116). -/
def execSeReg (x y : Nibble) (s : State) : Host.Outcome State Fault Refusal :=
  .next (s.skipIf (s.readV x == s.readV y))

/-- SNE Vx, Vy (R117). -/
def execSneReg (x y : Nibble) (s : State) : Host.Outcome State Fault Refusal :=
  .next (s.skipIf (s.readV x != s.readV y))

/-- JP V0, NNN (R118): always `V[0]`, and the sum is not reduced to 12 bits. -/
def execJpV0 (nnn : Addr12) (s : State) : Host.Outcome State Fault Refusal :=
  .next (s.setPc (addrOperand nnn + wideOperand (s.readV 0)))

end Sys2Proof.Machine
end

