-- ==== Sys2Proof/Machine/Display.lean ====
section
/-! DEFINITION. The display instructions (43_display.md). -/

namespace Sys2Proof.Machine

/-- CLS (R181). -/
def execCls (s : State) : Host.Outcome State Fault Refusal :=
  .next (s.setFb FrameBuffer.blank)

/-- The framebuffer and the collision of a draw of `bytes` at the origin `V[x]`, `V[y]`, latched before `VF` is cleared (R182). -/
def drawnSprite (s : State) (x y : Nibble) (bytes : List Byte) : FrameBuffer × Bool :=
  drawRows (s.readV x).toNat (s.readV y).toNat bytes (s.fb, false)

/-- DRW Vx, Vy, N (R182): the collision is the final value of `VF`. -/
def execDrw (x y n : Nibble) (s : State) : Host.Outcome State Fault Refusal :=
  match s.load s.i.toNat n.toNat with
  | none => s.raise .outOfRangeAccess
  | some bytes =>
    .next ((s.setFb (drawnSprite s x y bytes).1).writeV flagReg (flagByte (drawnSprite s x y bytes).2))

end Sys2Proof.Machine
end

