-- ==== Sys2Proof/Machine/IndexMem.lean ====
section
/-! DEFINITION. The index-register and memory instructions (42_index_memory.md). A transfer is checked as a whole before anything is
written (R160). -/

namespace Sys2Proof.Machine

/-- LD I, NNN (R161). -/
def execLdI (nnn : Addr12) (s : State) : Host.Outcome State Fault Refusal :=
  .next (s.setI (addrOperand nnn))

/-- ADD I, Vx (R162): modulo 65536, no flag. -/
def execAddI (x : Nibble) (s : State) : Host.Outcome State Fault Refusal :=
  .next (s.setI (s.i + wideOperand (s.readV x)))

/-- LD F, Vx (R163). -/
def execLdF (x : Nibble) (s : State) : Host.Outcome State Fault Refusal :=
  .next (s.setI (glyphAddress (s.readV x)))

/-- LD B, Vx (R164). -/
def execLdB (x : Nibble) (s : State) : Host.Outcome State Fault Refusal :=
  match s.store s.i.toNat (bcdDigits (s.readV x)) with
  | none => s.raise .outOfRangeAccess
  | some t => .next t

/-- LD [I], Vx (R165). -/
def execStoreRegs (x : Nibble) (s : State) : Host.Outcome State Fault Refusal :=
  match s.store s.i.toNat (regsThrough s x) with
  | none => s.raise .outOfRangeAccess
  | some t => .next (advanceIndex t x)

/-- LD Vx, [I] (R166). -/
def execLoadRegs (x : Nibble) (s : State) : Host.Outcome State Fault Refusal :=
  match s.load s.i.toNat (x.toNat + 1) with
  | none => s.raise .outOfRangeAccess
  | some bs => .next (advanceIndex (writeRegsThrough s x bs) x)

end Sys2Proof.Machine
end

