-- ==== Sys2Proof/Machine/Keypad.lean ====
section
/-! DEFINITION. The keypad and timer instructions (44_keypad_timers.md). `KEYS` is this cycle's sample; the tick comes after the
instruction (R190). -/

namespace Sys2Proof.Machine

/-- A skip on the level of the key `V[x]`, pressed or not as `level` says (R191, R192). -/
def skipOnKey (x : Nibble) (level : Bool) (s : State) : Host.Outcome State Fault Refusal :=
  if 15 < (s.readV x).toNat then s.raise .keyIndexOutOfRange
  else .next (s.skipIf (keyDown s.keys (s.readV x).toNat == level))

/-- SKP Vx (R191). -/
def execSkp (x : Nibble) (s : State) : Host.Outcome State Fault Refusal := skipOnKey x true s

/-- SKNP Vx (R192). -/
def execSknp (x : Nibble) (s : State) : Host.Outcome State Fault Refusal := skipOnKey x false s

/-- LD Vx, DT (R193). -/
def execLdVxDt (x : Nibble) (s : State) : Host.Outcome State Fault Refusal :=
  .next (s.writeV x s.dt)

/-- What a key-wait leaves (R194): with a key pressed its number in `V[x]`, with none `PC` back at the instruction. -/
def afterKeyWait (x : Nibble) (s : State) : Option Nat → State
  | none => s.setPc (s.pc - 2)
  | some k => s.writeV x (BitVec.ofNat 8 k)

/-- LD Vx, K (R194): the least pressed key, by level; a waiting cycle is a complete cycle. -/
def execLdVxK (x : Nibble) (s : State) : Host.Outcome State Fault Refusal :=
  .next (afterKeyWait x s (leastKey s.keys))

/-- LD DT, Vx (R195). -/
def execLdDtVx (x : Nibble) (s : State) : Host.Outcome State Fault Refusal :=
  .next (s.setDt (s.readV x))

/-- LD ST, Vx (R196). -/
def execLdStVx (x : Nibble) (s : State) : Host.Outcome State Fault Refusal :=
  .next (s.setSt (s.readV x))

end Sys2Proof.Machine
end

