-- ==== Sys2Proof/Machine/Cycle.lean ====
section
/-! DEFINITION. The cycle of a running core (60_exceptions.md R211): fetch, advance, decode and execute, tick; and the storing of a word
where the next cycle fetches. -/

namespace Sys2Proof.Machine

/-- The end of a cycle that started in `s` and whose instruction answered `t` (60_exceptions.md R211, R216). Where the instruction raised a
fault, every write of the cycle is discarded and only the latch is kept; otherwise the timers tick. -/
def endOfCycle (s t : State) : State :=
  if t.fault.valid then { s.nextInput with fault := t.fault } else t.tick.nextInput

/-- `Cycle` of 60_exceptions.md R211 for a core that is running (`FAULT.valid` = 0). -/
def cycle (s : State) : Host.Outcome State Fault Refusal :=
  match s.fetch with
  | none => .next (s.nextInput.takeFault .outOfRangeAccess s.pc 0)
  | some w =>
    match decode w with
    | .error _ => .next (s.nextInput.takeFault .illegalInstruction s.pc w)
    | .ok i =>
      match exec i (s.fetched w) with
      | .next t => .next (endOfCycle s t)
      | .fault r => .fault r
      | .refused r => .refused r

/-- A step of the core: a cycle requested of a running core, or the stop of a stopped one (60_exceptions.md R217).
DESIGN CHOICE (safe): the stop is the outcome `fault`; notes/assumptions/3.md. -/
def cycleRequested (s : State) : Host.Outcome State Fault Refusal :=
  if s.fault.valid then .fault (.stopped s.fault.cause) else cycle s

/-- The state with the bytes of a table word stored at `PC`, where the next cycle fetches. DESIGN CHOICE (safe):
notes/assumptions/10.md. -/
def storeAtPc (s : State) (nbits w : Nat) : State :=
  { s with mem := Memory.writeBytes s.cfg.font s.mem s.pc.toNat (tableWordBytes nbits w) }

end Sys2Proof.Machine
end

