-- ==== Sys2Proof/Machine/Step.lean ====
section
/-! DEFINITION. One step of the core is one requested cycle (60_exceptions.md R212: "A model takes the cycle as its single step"). -/

namespace Sys2Proof.Machine

/-- One cycle (60_exceptions.md R211, R217). -/
def step (s : State) : Host.Outcome State Fault Refusal := cycleRequested s

/-- The state with an instruction stored where `step` fetches its next one; it stands for the host's Load (70_reset_and_hazards.md R254,
R257; notes/assumptions/10.md). -/
def State.withFetchWord (s : State) (nbits w : Nat) : State := storeAtPc s nbits w

end Sys2Proof.Machine
end

