-- ==== Sys2Proof/Machine/HostOps.lean ====
section
/-! DEFINITION. What the host can do to the core between cycles and what it sees (60_exceptions.md R226, R227, R231 to R234;
70_reset_and_hazards.md R250, R254). Each operation is atomic (R212). -/

namespace Sys2Proof.Machine

/-- Drives the inputs of the next cycle (60_exceptions.md R226, R227, R233). -/
def hostDrive (s : State) (k : Inputs) : State := { s with inputs := k :: s.inputs }

/-- Requests one cycle with the given inputs (60_exceptions.md R211). A stopped core "returns at once and changes nothing" (R217). -/
def hostCycle (s : State) (k : Inputs) : State :=
  match step (hostDrive s k) with
  | .next t => t
  | .fault _ => s
  | .refused _ => s

/-- Reset (70_reset_and_hazards.md R250): every piece of state at its reset value; neither the inputs nor the configuration are touched
(R253). -/
def hostReset (s : State) : State :=
  { State.reset with cfg := s.cfg, inputs := s.inputs, drawn := s.drawn }

/-- Load (70_reset_and_hazards.md R254, R255): at most `PROG_CAP` bytes to 0x200 and up; nothing else changes (R256). -/
def hostLoad (s : State) (bytes : List Byte) : State :=
  { s with mem := Memory.writeBytes s.cfg.font s.mem Config.progBase (bytes.take Config.progCap) }

/-- The operations of the host that can change the core (60_exceptions.md R233). -/
inductive HostOp where
  | cycle (k : Inputs)
  | reset
  | load (bytes : List Byte)
deriving DecidableEq, Repr

/-- The effect of a host operation (60_exceptions.md R233). -/
def hostApply (s : State) : HostOp → State
  | .cycle k => hostCycle s k
  | .reset => hostReset s
  | .load bytes => hostLoad s bytes

/-- The framebuffer read port: `fb_data` = `FB[fb_addr mod W, fb_addr div W]` (60_exceptions.md R231). -/
def fbData (s : State) (fbAddr : BitVec 11) : Bool :=
  s.fb.pixel (fbAddr.toNat % Config.width) (fbAddr.toNat / Config.width)

/-- `sound_on` = (`ST` != 0) (60_exceptions.md R224). -/
def soundOn (s : State) : Bool := s.st != 0

/-- The other outputs of the port list (60_exceptions.md R232), valid between cycles. -/
structure Outputs where
  st : Byte
  soundOn : Bool
  faultValid : Bool
  faultCause : BitVec 3
  faultPc : Word
  faultInstr : Word
deriving DecidableEq, Repr

/-- What the host sees on the outputs (60_exceptions.md R232). -/
def outputs (s : State) : Outputs where
  st := s.st
  soundOn := soundOn s
  faultValid := s.fault.valid
  faultCause := s.fault.cause.code
  faultPc := s.fault.pc
  faultInstr := s.fault.instr

end Sys2Proof.Machine
end

