-- ==== Sys2Proof/Safety.lean ====
section
/-! DEFINITION. The terms claims are stated in: what a state keeps (frames), what counts as a fault-free run, the fault conditions of
60_exceptions.md R214, the cells a sprite covers (43_display.md R182), and the invariants of the machine. -/

namespace Sys2Proof.Machine

/-! ### Frames -/

/-- The parts of the state a statement can say are kept (10_state.md R20 to R34). `stack` is `SP` with `STACK`, `inputs` the input stream. -/
inductive Part where
  | v | i | pc | dt | st | stack | ir | fb | mem | fault | cfg | inputs
deriving DecidableEq, Repr

/-- The part is the same in both states: registers and memory as their reads give them. -/
def Part.same (s t : State) : Part → Prop
  | .v => ∀ r : Nibble, t.readV r = s.readV r
  | .i => t.i = s.i
  | .pc => t.pc = s.pc
  | .dt => t.dt = s.dt
  | .st => t.st = s.st
  | .stack => t.sp = s.sp ∧ t.stack = s.stack
  | .ir => t.ir = s.ir
  | .fb => t.fb = s.fb
  | .mem => ∀ a : Nat, t.readByte a = s.readByte a
  | .fault => t.fault = s.fault
  | .cfg => t.cfg = s.cfg
  | .inputs => t.inputs = s.inputs ∧ t.drawn = s.drawn

/-- From `s` to `t` only the parts listed may have changed. -/
def OnlyChanges (parts : List Part) (s t : State) : Prop := ∀ p : Part, p ∉ parts → p.same s t

/-- Every general register but those listed is kept. -/
def KeepsRegs (regs : List Nibble) (s t : State) : Prop := ∀ r : Nibble, r ∉ regs → t.readV r = s.readV r

/-- Every byte of memory outside the `n` bytes from `a` is kept. -/
def KeepsMemOutside (a n : Nat) (s t : State) : Prop := ∀ k : Nat, ¬(a ≤ k ∧ k < a + n) → t.readByte k = s.readByte k

/-! ### Safe runs -/

/-- The core is running: no fault is latched (60_exceptions.md R221). -/
def Running (s : State) : Prop := s.fault.valid = false

/-- A cycle that completes: a next state with no fault latched. A safe run is made of these. -/
def CompletesTo (s t : State) : Prop := step s = .next t ∧ Running t

/-- The instruction raises the fault `c` (60_exceptions.md R213, R216): the latch takes the cause, the address of the instruction (`PC` - 2,
since `PC` is already advanced) and its word, and nothing else changes. -/
def Raises (i : Instr) (s : State) (c : FaultCause) : Prop :=
  ∃ t, exec i s = .next t ∧ t.fault = { valid := true, cause := c, pc := s.pc - 2, instr := s.ir } ∧ OnlyChanges [.fault] s t

/-! ### Fault conditions (60_exceptions.md R214) -/

/-- The two bytes at `PC`, big-endian (20_memory.md R55). -/
def wordAtPc (s : State) : Word := s.readByte s.pc.toNat ++ s.readByte (s.pc.toNat + 1)

/-- The exact condition under which each instruction raises a fault (60_exceptions.md R214). -/
def executeFault (s : State) : Instr → Option FaultCause
  | .ret => if s.sp.val = 0 then some .stackUnderflow else none
  | .call _ => if s.sp.val = 16 then some .stackOverflow else none
  | .drw _ _ n => if 0 < n.toNat ∧ 4095 < s.i.toNat + n.toNat - 1 then some .outOfRangeAccess else none
  | .ldB _ => if 4095 < s.i.toNat + 2 then some .outOfRangeAccess else none
  | .storeRegs x => if 4095 < s.i.toNat + x.toNat then some .outOfRangeAccess else none
  | .loadRegs x => if 4095 < s.i.toNat + x.toNat then some .outOfRangeAccess else none
  | .skp x => if 15 < (s.readV x).toNat then some .keyIndexOutOfRange else none
  | .sknp x => if 15 < (s.readV x).toNat then some .keyIndexOutOfRange else none
  | _ => none

/-- The fault a cycle raises, in the order fetch, decode, execute (60_exceptions.md R214, R215). -/
def cycleFault (s : State) : Option FaultCause :=
  if 4094 < s.pc.toNat then some .outOfRangeAccess
  else
    match decode (wordAtPc s) with
    | .error _ => some .illegalInstruction
    | .ok i => executeFault s i

/-! ### Which instruction may write what -/

/-- The parts an instruction may write (10_state.md R21 to R29, R33; 20_memory.md R50; 60_exceptions.md R214). -/
def writtenParts : Instr → List Part
  | .cls => [.fb]
  | .ret => [.pc, .stack, .fault]
  | .jp _ => [.pc]
  | .call _ => [.pc, .stack, .fault]
  | .seImm _ _ => [.pc]
  | .sneImm _ _ => [.pc]
  | .seReg _ _ => [.pc]
  | .sneReg _ _ => [.pc]
  | .ldImm _ _ => [.v]
  | .addImm _ _ => [.v]
  | .ldReg _ _ => [.v]
  | .orReg _ _ => [.v]
  | .andReg _ _ => [.v]
  | .xorReg _ _ => [.v]
  | .addReg _ _ => [.v]
  | .subReg _ _ => [.v]
  | .shr _ _ => [.v]
  | .subnReg _ _ => [.v]
  | .shl _ _ => [.v]
  | .ldI _ => [.i]
  | .jpV0 _ => [.pc]
  | .rnd _ _ => [.v]
  | .drw _ _ _ => [.v, .fb, .fault]
  | .skp _ => [.pc, .fault]
  | .sknp _ => [.pc, .fault]
  | .ldVxDt _ => [.v]
  | .ldVxK _ => [.v, .pc]
  | .ldDtVx _ => [.dt]
  | .ldStVx _ => [.st]
  | .addI _ => [.i]
  | .ldF _ => [.i]
  | .ldB _ => [.mem, .fault]
  | .storeRegs _ => [.mem, .i, .fault]
  | .loadRegs _ => [.v, .i, .fault]

/-- The six instructions that write `VF` as a flag (10_state.md R21). -/
def writesFlag : Instr → Bool
  | .addReg _ _ => true
  | .subReg _ _ => true
  | .shr _ _ => true
  | .subnReg _ _ => true
  | .shl _ _ => true
  | .drw _ _ _ => true
  | _ => false

/-- The instruction names register `r` as its destination, the bulk load naming every register up to its X (10_state.md R21). -/
def writesNamed (r : Nibble) : Instr → Bool
  | .ldImm x _ => x == r
  | .addImm x _ => x == r
  | .ldReg x _ => x == r
  | .orReg x _ => x == r
  | .andReg x _ => x == r
  | .xorReg x _ => x == r
  | .addReg x _ => x == r
  | .subReg x _ => x == r
  | .shr x _ => x == r
  | .subnReg x _ => x == r
  | .shl x _ => x == r
  | .rnd x _ => x == r
  | .ldVxDt x => x == r
  | .ldVxK x => x == r
  | .loadRegs x => decide (r.toNat ≤ x.toNat)
  | _ => false

/-! ### Sprites (43_display.md R182) -/

/-- Cell (px, py) lies under a set bit of the `n`-row sprite at `I`, drawn with origin (x0, y0): some row r and column c have bit 7 - c set
and fold to that cell (43_display.md R182). -/
def Covers (s : State) (x0 y0 n px py : Nat) : Prop :=
  ∃ r, r < n ∧ ∃ c, c < 8 ∧ (s.readByte (s.i.toNat + r)).getLsbD (7 - c) = true ∧ px = (x0 + c) % 64 ∧ py = (y0 + r) % 32

/-- Some cell under a set bit of the sprite is on (43_display.md R182). -/
def Collides (s : State) (x0 y0 n : Nat) : Prop :=
  ∃ px py, px < 64 ∧ py < 32 ∧ Covers s x0 y0 n px py ∧ s.fb.pixel px py = true

/-! ### Invariants -/

/-- `PC` never passes 0x10FE, and no return address in use passes 0x1000 (10_state.md R23). -/
def PcBounded (s : State) : Prop :=
  s.pc.toNat ≤ 0x10FE ∧ ∀ j : Fin 16, j.val < s.sp.val → (s.stack[j]).toNat ≤ 0x1000

/-- A latch that is not valid is clear, and a valid one names a cause (10_state.md R33; 60_exceptions.md R213). -/
def LatchLegal (s : State) : Prop :=
  (s.fault.valid = false → s.fault = FaultLatch.clear) ∧ (s.fault.valid = true → s.fault.cause ≠ .none)

/-- The two states differ at most in `IR` and in the stack slots at or above `SP`: what no instruction can read (10_state.md R27, R28). -/
def SameButUnobservable (s t : State) : Prop :=
  t = { s with ir := t.ir, stack := t.stack } ∧ ∀ j : Fin 16, j.val < s.sp.val → t.stack[j] = s.stack[j]

/-! ### Reset values -/

/-- The five bytes in memory where the glyph of digit `d` stands after reset (20_memory.md R52). -/
def glyphAt (s : State) (d : Nat) : List Byte := Memory.readBytes s.cfg.font s.mem (0x50 + 5 * d) 5

/-- Every piece of state is at its value of 10_state.md R38 (FONT is the font of its configuration, 00_scope.md R8). -/
def HasResetValues (s : State) : Prop :=
  (∀ r : Nibble, s.readV r = 0) ∧ s.i = 0 ∧ s.pc = 0x0200 ∧ s.dt = 0 ∧ s.st = 0 ∧
  s.sp.val = 0 ∧ (∀ j : Fin 16, s.stack[j] = 0) ∧ s.ir = 0 ∧
  (∀ px py, px < 64 → py < 32 → s.fb.pixel px py = false) ∧
  (∀ a : Nat, a < 0x50 → s.readByte a = 0) ∧
  (∀ j : Fin 80, s.readByte (0x50 + j.val) = s.cfg.font[j]) ∧
  (∀ a : Nat, 0xA0 ≤ a → a < 4096 → s.readByte a = 0) ∧
  s.fault.valid = false ∧ s.fault.cause.code = 0 ∧ s.fault.pc = 0 ∧ s.fault.instr = 0

/-! ### Calls and returns (40_control_flow.md R113) -/

/-- A sequence of calls: each pair is the advanced `PC` at the call (the address of the instruction after it) and the call's target. -/
def callAll : List (Word × Addr12) → State → Option State
  | [], s => some s
  | (next, target) :: cs, s =>
    match exec (.call target) (s.setPc next) with
    | .next t => if t.fault.valid then none else callAll cs t
    | .fault _ => none
    | .refused _ => none

/-- A number of returns: the `PC` after each, first return first. -/
def returnAll : Nat → State → Option (List Word)
  | 0, _ => some []
  | n + 1, s =>
    match exec .ret s with
    | .next t => if t.fault.valid then none else (returnAll n t).map (t.pc :: ·)
    | .fault _ => none
    | .refused _ => none

end Sys2Proof.Machine
end

