-- ==== Sys2Proof/Certificates/Slice0/Obligations.lean ====
section
/-! DEFINITION. The statements about the model, each from the numbered rules of spec/ its docstring names. In a statement about `exec` the
state is the one an instruction starts in: `PC` already advanced by 2 and `IR` holding the word (40_control_flow.md R110). The words in the
`decode` clauses are the patterns of 30_encoding.md R85, which marks 32 of the 34 as general knowledge (notes/assumptions/6.md). -/

open Sys2Proof Sys2Proof.Machine

/-! ### Control flow -/

/-- R111: RET pops the top of the stack into `PC`; with an empty stack it raises StackUnderflow. -/
def Obligations.RetPopsReturnAddress : Prop :=
  decode 0x00EE = .ok .ret ∧
  ∀ s : State,
    (s.sp.val = 0 → Raises .ret s .stackUnderflow) ∧
    (∀ j : Fin 16, s.sp.val = j.val + 1 →
      ∃ t, exec .ret s = .next t ∧ t.pc = s.stack[j] ∧ t.sp.val = j.val ∧ t.stack = s.stack ∧ OnlyChanges [.pc, .stack] s t)

/-- R112: JP NNN sets `PC` to the zero-extended NNN. -/
def Obligations.JpSetsPc : Prop :=
  ∀ (nnn : Addr12) (s : State),
    decode (0x1#4 ++ nnn) = .ok (.jp nnn) ∧
    ∃ t, exec (.jp nnn) s = .next t ∧ t.pc.toNat = nnn.toNat ∧ OnlyChanges [.pc] s t

/-- R113: CALL NNN pushes the advanced `PC` and jumps; with a full stack it raises StackOverflow. -/
def Obligations.CallPushesAndJumps : Prop :=
  ∀ (nnn : Addr12) (s : State),
    decode (0x2#4 ++ nnn) = .ok (.call nnn) ∧
    (s.sp.val = 16 → Raises (.call nnn) s .stackOverflow) ∧
    (∀ j : Fin 16, s.sp.val = j.val →
      ∃ t, exec (.call nnn) s = .next t ∧ t.pc.toNat = nnn.toNat ∧ t.sp.val = j.val + 1 ∧ t.stack[j] = s.pc ∧
        (∀ k : Fin 16, k ≠ j → t.stack[k] = s.stack[k]) ∧ OnlyChanges [.pc, .stack] s t)

/-- R114: SE Vx, NN skips exactly when `V[X]` equals NN. -/
def Obligations.SeImmSkipsWhenEqual : Prop :=
  ∀ (x : Nibble) (nn : Byte) (s : State),
    decode (0x3#4 ++ x ++ nn) = .ok (.seImm x nn) ∧
    ∃ t, exec (.seImm x nn) s = .next t ∧ OnlyChanges [.pc] s t ∧
      (s.readV x = nn → t.pc.toNat = (s.pc.toNat + 2) % 65536) ∧ (s.readV x ≠ nn → t.pc = s.pc)

/-- R115: SNE Vx, NN skips exactly when `V[X]` differs from NN. -/
def Obligations.SneImmSkipsWhenDifferent : Prop :=
  ∀ (x : Nibble) (nn : Byte) (s : State),
    decode (0x4#4 ++ x ++ nn) = .ok (.sneImm x nn) ∧
    ∃ t, exec (.sneImm x nn) s = .next t ∧ OnlyChanges [.pc] s t ∧
      (s.readV x ≠ nn → t.pc.toNat = (s.pc.toNat + 2) % 65536) ∧ (s.readV x = nn → t.pc = s.pc)

/-- R116: SE Vx, Vy skips exactly when the registers are equal; a trailing nibble other than 0 is illegal. -/
def Obligations.SeRegSkipsWhenEqual : Prop :=
  ∀ (x y : Nibble) (s : State),
    decode (0x5#4 ++ x ++ y ++ 0x0#4) = .ok (.seReg x y) ∧
    (∀ n : Nibble, n ≠ 0 → decode (0x5#4 ++ x ++ y ++ n) = .error .illegalOp5) ∧
    ∃ t, exec (.seReg x y) s = .next t ∧ OnlyChanges [.pc] s t ∧
      (s.readV x = s.readV y → t.pc.toNat = (s.pc.toNat + 2) % 65536) ∧ (s.readV x ≠ s.readV y → t.pc = s.pc)

/-- R117: SNE Vx, Vy skips exactly when the registers differ; a trailing nibble other than 0 is illegal. -/
def Obligations.SneRegSkipsWhenDifferent : Prop :=
  ∀ (x y : Nibble) (s : State),
    decode (0x9#4 ++ x ++ y ++ 0x0#4) = .ok (.sneReg x y) ∧
    (∀ n : Nibble, n ≠ 0 → decode (0x9#4 ++ x ++ y ++ n) = .error .illegalOp9) ∧
    ∃ t, exec (.sneReg x y) s = .next t ∧ OnlyChanges [.pc] s t ∧
      (s.readV x ≠ s.readV y → t.pc.toNat = (s.pc.toNat + 2) % 65536) ∧ (s.readV x = s.readV y → t.pc = s.pc)

/-- R118: JP V0, NNN adds `V[0]` to NNN in 16 bits, with no 12-bit mask (the register is the spec's decision D35). -/
def Obligations.JpV0AddsOffset : Prop :=
  ∀ (nnn : Addr12) (s : State),
    decode (0xB#4 ++ nnn) = .ok (.jpV0 nnn) ∧
    ∃ t, exec (.jpV0 nnn) s = .next t ∧ t.pc.toNat = nnn.toNat + (s.readV 0).toNat ∧ OnlyChanges [.pc] s t

/-! ### Registers and arithmetic -/

/-- R131: LD Vx, NN. -/
def Obligations.LdImmLoads : Prop :=
  ∀ (x : Nibble) (nn : Byte) (s : State),
    decode (0x6#4 ++ x ++ nn) = .ok (.ldImm x nn) ∧
    ∃ t, exec (.ldImm x nn) s = .next t ∧ t.readV x = nn ∧ KeepsRegs [x] s t ∧ OnlyChanges [.v] s t

/-- R132: ADD Vx, NN wraps modulo 256 and writes no flag. -/
def Obligations.AddImmWrapsWithoutFlag : Prop :=
  ∀ (x : Nibble) (nn : Byte) (s : State),
    decode (0x7#4 ++ x ++ nn) = .ok (.addImm x nn) ∧
    ∃ t, exec (.addImm x nn) s = .next t ∧ (t.readV x).toNat = ((s.readV x).toNat + nn.toNat) % 256 ∧
      KeepsRegs [x] s t ∧ OnlyChanges [.v] s t

/-- R133: LD Vx, Vy. -/
def Obligations.LdRegCopies : Prop :=
  ∀ (x y : Nibble) (s : State),
    decode (0x8#4 ++ x ++ y ++ 0x0#4) = .ok (.ldReg x y) ∧
    ∃ t, exec (.ldReg x y) s = .next t ∧ t.readV x = s.readV y ∧ KeepsRegs [x] s t ∧ OnlyChanges [.v] s t

/-- R134: OR Vx, Vy, bit by bit, no flag. -/
def Obligations.OrCombinesBits : Prop :=
  ∀ (x y : Nibble) (s : State),
    decode (0x8#4 ++ x ++ y ++ 0x1#4) = .ok (.orReg x y) ∧
    ∃ t, exec (.orReg x y) s = .next t ∧
      (∀ k < 8, (t.readV x).getLsbD k = ((s.readV x).getLsbD k || (s.readV y).getLsbD k)) ∧
      KeepsRegs [x] s t ∧ OnlyChanges [.v] s t

/-- R135: AND Vx, Vy, bit by bit, no flag. -/
def Obligations.AndCombinesBits : Prop :=
  ∀ (x y : Nibble) (s : State),
    decode (0x8#4 ++ x ++ y ++ 0x2#4) = .ok (.andReg x y) ∧
    ∃ t, exec (.andReg x y) s = .next t ∧
      (∀ k < 8, (t.readV x).getLsbD k = ((s.readV x).getLsbD k && (s.readV y).getLsbD k)) ∧
      KeepsRegs [x] s t ∧ OnlyChanges [.v] s t

/-- R136: XOR Vx, Vy, bit by bit, no flag. -/
def Obligations.XorCombinesBits : Prop :=
  ∀ (x y : Nibble) (s : State),
    decode (0x8#4 ++ x ++ y ++ 0x3#4) = .ok (.xorReg x y) ∧
    ∃ t, exec (.xorReg x y) s = .next t ∧
      (∀ k < 8, (t.readV x).getLsbD k = ((s.readV x).getLsbD k != (s.readV y).getLsbD k)) ∧
      KeepsRegs [x] s t ∧ OnlyChanges [.v] s t

/-- R137: ADD Vx, Vy; `VF` is the carry, also where X = 15 (the sum is then lost). -/
def Obligations.AddRegSetsCarry : Prop :=
  ∀ (x y : Nibble) (s : State),
    decode (0x8#4 ++ x ++ y ++ 0x4#4) = .ok (.addReg x y) ∧
    ∃ t, exec (.addReg x y) s = .next t ∧
      (x ≠ 15 → (t.readV x).toNat = ((s.readV x).toNat + (s.readV y).toNat) % 256) ∧
      t.readV 15 = (if (s.readV x).toNat + (s.readV y).toNat > 255 then 1 else 0) ∧
      KeepsRegs [x, 15] s t ∧ OnlyChanges [.v] s t

/-- R138: SUB Vx, Vy; `VF` is 1 iff `V[X]` was strictly greater, also where X = 15. -/
def Obligations.SubRegSetsStrictFlag : Prop :=
  ∀ (x y : Nibble) (s : State),
    decode (0x8#4 ++ x ++ y ++ 0x5#4) = .ok (.subReg x y) ∧
    ∃ t, exec (.subReg x y) s = .next t ∧
      (x ≠ 15 → (t.readV x).toNat = ((s.readV x).toNat + 256 - (s.readV y).toNat) % 256) ∧
      t.readV 15 = (if (s.readV x).toNat > (s.readV y).toNat then 1 else 0) ∧
      KeepsRegs [x, 15] s t ∧ OnlyChanges [.v] s t

/-- R139: SHR; the source is `V[Y]` when SHIFT_USES_VY and `V[X]` otherwise; `VF` is the bit shifted out, also where X = 15. -/
def Obligations.ShrSetsDroppedBit : Prop :=
  ∀ (x y : Nibble) (s : State) (src : Byte), src = (if s.cfg.shiftUsesVy then s.readV y else s.readV x) →
    decode (0x8#4 ++ x ++ y ++ 0x6#4) = .ok (.shr x y) ∧
    ∃ t, exec (.shr x y) s = .next t ∧
      (x ≠ 15 → (t.readV x).toNat = src.toNat / 2) ∧
      (t.readV 15).toNat = src.toNat % 2 ∧
      KeepsRegs [x, 15] s t ∧ OnlyChanges [.v] s t

/-- R140: SUBN Vx, Vy; `VF` is 1 iff `V[Y]` was strictly greater, also where X = 15. -/
def Obligations.SubnRegSetsStrictFlag : Prop :=
  ∀ (x y : Nibble) (s : State),
    decode (0x8#4 ++ x ++ y ++ 0x7#4) = .ok (.subnReg x y) ∧
    ∃ t, exec (.subnReg x y) s = .next t ∧
      (x ≠ 15 → (t.readV x).toNat = ((s.readV y).toNat + 256 - (s.readV x).toNat) % 256) ∧
      t.readV 15 = (if (s.readV y).toNat > (s.readV x).toNat then 1 else 0) ∧
      KeepsRegs [x, 15] s t ∧ OnlyChanges [.v] s t

/-- R141: SHL; as SHR with the most significant bit shifted out. -/
def Obligations.ShlSetsDroppedBit : Prop :=
  ∀ (x y : Nibble) (s : State) (src : Byte), src = (if s.cfg.shiftUsesVy then s.readV y else s.readV x) →
    decode (0x8#4 ++ x ++ y ++ 0xE#4) = .ok (.shl x y) ∧
    ∃ t, exec (.shl x y) s = .next t ∧
      (x ≠ 15 → (t.readV x).toNat = src.toNat * 2 % 256) ∧
      (t.readV 15).toNat = src.toNat / 128 ∧
      KeepsRegs [x, 15] s t ∧ OnlyChanges [.v] s t

/-- R142: RND Vx, NN is the cycle's random byte under the mask, whatever that byte is. -/
def Obligations.RndMasksFreeByte : Prop :=
  ∀ (x : Nibble) (nn : Byte) (s : State),
    decode (0xC#4 ++ x ++ nn) = .ok (.rnd x nn) ∧
    ∃ t, exec (.rnd x nn) s = .next t ∧
      (∀ k < 8, (t.readV x).getLsbD k = (s.rnd.getLsbD k && nn.getLsbD k)) ∧
      KeepsRegs [x] s t ∧ OnlyChanges [.v] s t

/-! ### Index register and memory -/

/-- R161: LD I, NNN. -/
def Obligations.LdISetsIndex : Prop :=
  ∀ (nnn : Addr12) (s : State),
    decode (0xA#4 ++ nnn) = .ok (.ldI nnn) ∧
    ∃ t, exec (.ldI nnn) s = .next t ∧ t.i.toNat = nnn.toNat ∧ OnlyChanges [.i] s t

/-- R162: ADD I, Vx wraps modulo 65536 and writes no flag. -/
def Obligations.AddIWrapsWithoutFlag : Prop :=
  ∀ (x : Nibble) (s : State),
    decode (0xF#4 ++ x ++ 0x1E#8) = .ok (.addI x) ∧
    ∃ t, exec (.addI x) s = .next t ∧ t.i.toNat = (s.i.toNat + (s.readV x).toNat) % 65536 ∧ OnlyChanges [.i] s t

/-- R163: LD F, Vx uses the whole register value. -/
def Obligations.LdFAddressesGlyph : Prop :=
  ∀ (x : Nibble) (s : State),
    decode (0xF#4 ++ x ++ 0x29#8) = .ok (.ldF x) ∧
    ∃ t, exec (.ldF x) s = .next t ∧ t.i.toNat = (s.readV x).toNat * 5 + 0x50 ∧ OnlyChanges [.i] s t

/-- R164: LD B, Vx stores the three decimal digits at `I`, or raises OutOfRangeAccess when `I + 2 > 4095`. -/
def Obligations.LdBStoresDigits : Prop :=
  ∀ (x : Nibble) (s : State),
    decode (0xF#4 ++ x ++ 0x33#8) = .ok (.ldB x) ∧
    (s.i.toNat + 2 > 4095 → Raises (.ldB x) s .outOfRangeAccess) ∧
    (s.i.toNat + 2 ≤ 4095 →
      ∃ t, exec (.ldB x) s = .next t ∧
        (t.readByte s.i.toNat).toNat = (s.readV x).toNat / 100 ∧
        (t.readByte (s.i.toNat + 1)).toNat = (s.readV x).toNat / 10 % 10 ∧
        (t.readByte (s.i.toNat + 2)).toNat = (s.readV x).toNat % 10 ∧
        KeepsMemOutside s.i.toNat 3 s t ∧ OnlyChanges [.mem] s t)

/-- R165: LD [I], Vx stores `V[0]` to `V[X]` at `I` and up, or raises OutOfRangeAccess when `I + X > 4095`; `I` advances by X + 1 under
INDEX_INCREMENT only (the rule marks the amount as general knowledge, decision D18; notes/assumptions/9.md). -/
def Obligations.StoreRegsStoresAll : Prop :=
  ∀ (x : Nibble) (s : State),
    decode (0xF#4 ++ x ++ 0x55#8) = .ok (.storeRegs x) ∧
    (s.i.toNat + x.toNat > 4095 → Raises (.storeRegs x) s .outOfRangeAccess) ∧
    (s.i.toNat + x.toNat ≤ 4095 →
      ∃ t, exec (.storeRegs x) s = .next t ∧
        (∀ k : Nibble, k.toNat ≤ x.toNat → t.readByte (s.i.toNat + k.toNat) = s.readV k) ∧
        KeepsMemOutside s.i.toNat (x.toNat + 1) s t ∧
        (s.cfg.indexIncrement = true → t.i.toNat = (s.i.toNat + x.toNat + 1) % 65536) ∧
        (s.cfg.indexIncrement = false → t.i = s.i) ∧ OnlyChanges [.mem, .i] s t)

/-- R166: LD Vx, [I] loads `V[0]` to `V[X]` from `I` and up, or raises OutOfRangeAccess when `I + X > 4095`; `I` as in R165. -/
def Obligations.LoadRegsLoadsAll : Prop :=
  ∀ (x : Nibble) (s : State),
    decode (0xF#4 ++ x ++ 0x65#8) = .ok (.loadRegs x) ∧
    (s.i.toNat + x.toNat > 4095 → Raises (.loadRegs x) s .outOfRangeAccess) ∧
    (s.i.toNat + x.toNat ≤ 4095 →
      ∃ t, exec (.loadRegs x) s = .next t ∧
        (∀ k : Nibble, k.toNat ≤ x.toNat → t.readV k = s.readByte (s.i.toNat + k.toNat)) ∧
        (∀ k : Nibble, x.toNat < k.toNat → t.readV k = s.readV k) ∧
        (s.cfg.indexIncrement = true → t.i.toNat = (s.i.toNat + x.toNat + 1) % 65536) ∧
        (s.cfg.indexIncrement = false → t.i = s.i) ∧ OnlyChanges [.v, .i] s t)

/-! ### Display -/

/-- R181: CLS turns every cell off. -/
def Obligations.ClsClearsScreen : Prop :=
  decode 0x00E0 = .ok .cls ∧
  ∀ s : State, ∃ t, exec .cls s = .next t ∧ (∀ px py, px < 64 → py < 32 → t.fb.pixel px py = false) ∧ OnlyChanges [.fb] s t

/-- R182: DRW toggles exactly the cells under set sprite bits, the origin being the old `V[X]`, `V[Y]`, every pixel folded on its own;
`VF` is 1 iff a cell under a set bit was on, else 0 (N = 0 draws nothing, clears `VF` and cannot fault); OutOfRangeAccess when N > 0
and `I + N - 1 > 4095`. The rule marks the bit and row order as general knowledge (D34; notes/assumptions/7.md) and the latching of the
origin as its decision D8. -/
def Obligations.DrwTogglesCoveredCells : Prop :=
  ∀ (x y n : Nibble) (s : State),
    decode (0xD#4 ++ x ++ y ++ n) = .ok (.drw x y n) ∧
    (0 < n.toNat ∧ s.i.toNat + n.toNat - 1 > 4095 → Raises (.drw x y n) s .outOfRangeAccess) ∧
    (n.toNat = 0 ∨ s.i.toNat + n.toNat - 1 ≤ 4095 →
      ∃ t, exec (.drw x y n) s = .next t ∧
        (∀ px py, px < 64 → py < 32 →
          (t.fb.pixel px py ≠ s.fb.pixel px py ↔ Covers s (s.readV x).toNat (s.readV y).toNat n.toNat px py)) ∧
        (Collides s (s.readV x).toNat (s.readV y).toNat n.toNat → t.readV 15 = 1) ∧
        (¬Collides s (s.readV x).toNat (s.readV y).toNat n.toNat → t.readV 15 = 0) ∧
        KeepsRegs [15] s t ∧ OnlyChanges [.v, .fb] s t)

/-- R183 (a), (b): with X and Y other than 15, drawing the same sprite twice restores the framebuffer, and the second draw's flag is 1 iff
some cell under a set bit is on after the first draw. -/
def Obligations.DrwTwiceRestoresScreen : Prop :=
  ∀ (x y n : Nibble) (s t u : State), x ≠ 15 → y ≠ 15 →
    (n.toNat = 0 ∨ s.i.toNat + n.toNat - 1 ≤ 4095) →
    exec (.drw x y n) s = .next t → exec (.drw x y n) t = .next u →
      u.fb = s.fb ∧ (u.readV 15 = 1 ↔ Collides t (s.readV x).toNat (s.readV y).toNat n.toNat)

/-! ### Keypad and timers -/

/-- R191: SKP Vx skips exactly when the key `V[X]` is down; above 15 it raises KeyIndexOutOfRange (the spec's decision D9). -/
def Obligations.SkpSkipsWhenPressed : Prop :=
  ∀ (x : Nibble) (s : State),
    decode (0xE#4 ++ x ++ 0x9E#8) = .ok (.skp x) ∧
    ((s.readV x).toNat > 15 → Raises (.skp x) s .keyIndexOutOfRange) ∧
    ((s.readV x).toNat ≤ 15 →
      ∃ t, exec (.skp x) s = .next t ∧ OnlyChanges [.pc] s t ∧
        (s.keys.getLsbD (s.readV x).toNat = true → t.pc.toNat = (s.pc.toNat + 2) % 65536) ∧
        (s.keys.getLsbD (s.readV x).toNat = false → t.pc = s.pc))

/-- R192: SKNP Vx skips exactly when the key `V[X]` is up; above 15 it raises KeyIndexOutOfRange (the spec's decision D9). -/
def Obligations.SknpSkipsWhenReleased : Prop :=
  ∀ (x : Nibble) (s : State),
    decode (0xE#4 ++ x ++ 0xA1#8) = .ok (.sknp x) ∧
    ((s.readV x).toNat > 15 → Raises (.sknp x) s .keyIndexOutOfRange) ∧
    ((s.readV x).toNat ≤ 15 →
      ∃ t, exec (.sknp x) s = .next t ∧ OnlyChanges [.pc] s t ∧
        (s.keys.getLsbD (s.readV x).toNat = false → t.pc.toNat = (s.pc.toNat + 2) % 65536) ∧
        (s.keys.getLsbD (s.readV x).toNat = true → t.pc = s.pc))

/-- R193: LD Vx, DT reads the timer before the tick; after the cycle the timer is one less (the spec derives that from R211). -/
def Obligations.LdVxDtReadsTimer : Prop :=
  ∀ (x : Nibble) (s : State),
    decode (0xF#4 ++ x ++ 0x07#8) = .ok (.ldVxDt x) ∧
    (∃ t, exec (.ldVxDt x) s = .next t ∧ t.readV x = s.dt ∧ KeepsRegs [x] s t ∧ OnlyChanges [.v] s t) ∧
    (∀ u, Running s → s.pc.toNat ≤ 4094 → wordAtPc s = 0xF#4 ++ x ++ 0x07#8 → step s = .next u →
      u.readV x = s.dt ∧ u.dt.toNat = s.dt.toNat - 1)

/-- R194: LD Vx, K takes the least pressed key (the spec's decision D10; notes/assumptions/8.md), or with none pressed puts `PC` back by 2
and changes no register; a waiting cycle is a complete cycle that ends at its own instruction with the timers ticked. -/
def Obligations.LdVxKTakesLeastKeyOrWaits : Prop :=
  ∀ (x : Nibble) (s : State),
    decode (0xF#4 ++ x ++ 0x0A#8) = .ok (.ldVxK x) ∧
    (s.keys = 0 → ∃ t, exec (.ldVxK x) s = .next t ∧ t.pc = s.pc - 2 ∧ OnlyChanges [.pc] s t) ∧
    (∀ k, k < 16 → s.keys.getLsbD k = true → (∀ j < k, s.keys.getLsbD j = false) →
      ∃ t, exec (.ldVxK x) s = .next t ∧ (t.readV x).toNat = k ∧ KeepsRegs [x] s t ∧ OnlyChanges [.v] s t) ∧
    (∀ u, Running s → s.pc.toNat ≤ 4094 → wordAtPc s = 0xF#4 ++ x ++ 0x0A#8 → s.keys = 0 → step s = .next u →
      u.pc = s.pc ∧ u.ir = wordAtPc s ∧ u.dt.toNat = s.dt.toNat - 1 ∧ u.st.toNat = s.st.toNat - 1 ∧
        OnlyChanges [.ir, .dt, .st, .inputs] s u)

/-- R195: LD DT, Vx; the tick of the same cycle leaves one less (the spec derives that from R211 and R222). -/
def Obligations.LdDtVxSetsTimer : Prop :=
  ∀ (x : Nibble) (s : State),
    decode (0xF#4 ++ x ++ 0x15#8) = .ok (.ldDtVx x) ∧
    (∃ t, exec (.ldDtVx x) s = .next t ∧ t.dt = s.readV x ∧ OnlyChanges [.dt] s t) ∧
    (∀ u, Running s → s.pc.toNat ≤ 4094 → wordAtPc s = 0xF#4 ++ x ++ 0x15#8 → step s = .next u →
      u.dt.toNat = (s.readV x).toNat - 1)

/-- R196: LD ST, Vx; the tick of the same cycle leaves one less (as R195). -/
def Obligations.LdStVxSetsTimer : Prop :=
  ∀ (x : Nibble) (s : State),
    decode (0xF#4 ++ x ++ 0x18#8) = .ok (.ldStVx x) ∧
    (∃ t, exec (.ldStVx x) s = .next t ∧ t.st = s.readV x ∧ OnlyChanges [.st] s t) ∧
    (∀ u, Running s → s.pc.toNat ≤ 4094 → wordAtPc s = 0xF#4 ++ x ++ 0x18#8 → step s = .next u →
      u.st.toNat = (s.readV x).toNat - 1)

/-! ### Decoding and encoding -/

/-- R86 against R85: decoding a word gives an instruction exactly when the word is that instruction's encoding. -/
def Obligations.DecodeInvertsEncode : Prop :=
  ∀ (w : Word) (i : Instr), decode w = .ok i ↔ encode i = w

/-- R85: a word has the mask and match of a row of the opcode map iff it decodes to an instruction with that row's mnemonic. -/
def Obligations.DecodeFollowsOpcodeMap : Prop :=
  ∀ (w : Word) (r : OpcodeRow), r ∈ opcodeMap →
    (w &&& r.mask = r.value ↔ ∃ i, decode w = .ok i ∧ i.mnemonic = r.mnemonic)

/-- R87: a word that matches no row is refused by the decoder, and a running core that fetches it latches IllegalInstruction with the
word and its address, everything else kept. The consumed input
sample is the model's own (notes/assumptions/1.md). -/
def Obligations.UnmatchedWordIsIllegal : Prop :=
  ∀ s : State, Running s → s.pc.toNat ≤ 4094 → (∀ r ∈ opcodeMap, wordAtPc s &&& r.mask ≠ r.value) →
    ∃ u, step s = .next u ∧
      u.fault = { valid := true, cause := .illegalInstruction, pc := s.pc, instr := wordAtPc s } ∧
      OnlyChanges [.fault, .inputs] s u

/-- R93, R85, R88: seven words written out from the opcode map decode to the instructions they stand for, and 0x01E0 is illegal. -/
def Obligations.SampleWordsDecode : Prop :=
  decode 0x6A02 = .ok (.ldImm 0xA 0x02) ∧ decode 0x6B03 = .ok (.ldImm 0xB 0x03) ∧ decode 0x8AB4 = .ok (.addReg 0xA 0xB) ∧
  decode 0x1234 = .ok (.jp 0x234) ∧ decode 0xF533 = .ok (.ldB 5) ∧ decode 0xD235 = .ok (.drw 2 3 5) ∧
  decode 0xE1A1 = .ok (.sknp 1) ∧ decode 0x01E0 = .error .illegalOp0

/-! ### The cycle -/

/-- R211: the cycle of a running core. A fetch above 4094 and an illegal word latch their fault; a word that decodes to `i` runs exactly `i`,
on the state with `IR` loaded and `PC` advanced by 2, and then a completing cycle ticks both timers while a faulting one keeps nothing but
the latch. Each cycle consumes one input sample: `inputs` and `drawn` are the model's own (notes/assumptions/1.md). -/
def Obligations.StepRunsDecodedInstr : Prop :=
  ∀ s : State, Running s →
    (4094 < s.pc.toNat → step s = .next { s with
      fault := { valid := true, cause := .outOfRangeAccess, pc := s.pc, instr := 0 },
      inputs := s.inputs.tail, drawn := s.drawn + 1 }) ∧
    (∀ e, s.pc.toNat ≤ 4094 → decode (wordAtPc s) = .error e → step s = .next { s with
      fault := { valid := true, cause := .illegalInstruction, pc := s.pc, instr := wordAtPc s },
      inputs := s.inputs.tail, drawn := s.drawn + 1 }) ∧
    (∀ i t, s.pc.toNat ≤ 4094 → decode (wordAtPc s) = .ok i →
      exec i { s with ir := wordAtPc s, pc := s.pc + 2 } = .next t →
        (t.fault.valid = false →
          step s = .next { t with
            dt := BitVec.ofNat 8 (t.dt.toNat - 1), st := BitVec.ofNat 8 (t.st.toNat - 1),
            inputs := t.inputs.tail, drawn := t.drawn + 1 }) ∧
        (t.fault.valid = true →
          step s = .next { s with fault := t.fault, inputs := s.inputs.tail, drawn := s.drawn + 1 }))

/-- R31, R32, R226, R227: the inputs the host drives are the ones the next cycle samples, once, and the cycle after it samples anew. The clause
on `inputs` and `drawn` is about the model's own fields (DESIGN CHOICE, notes/assumptions/1.md). -/
def Obligations.CycleSamplesDrivenInputs : Prop :=
  ∀ (s u : State) (k : Inputs), Running s →
    (hostDrive s k).keys = k.keys ∧ (hostDrive s k).rnd = k.rnd ∧
    (step (hostDrive s k) = .next u → u.inputs = s.inputs ∧ u.drawn = s.drawn + 1)

/-- R222: in every completing cycle each timer goes down by one and holds at zero, after the instruction: the one that LD DT or LD ST wrote
counts from the value written. -/
def Obligations.TimersTickEveryCycle : Prop :=
  ∀ s u : State, Running s → CompletesTo s u →
    (u.dt.toNat = (match decode (wordAtPc s) with
      | .ok (.ldDtVx x) => (s.readV x).toNat
      | _ => s.dt.toNat) - 1) ∧
    (u.st.toNat = (match decode (wordAtPc s) with
      | .ok (.ldStVx x) => (s.readV x).toNat
      | _ => s.st.toNat) - 1)

/-! ### Faults -/

/-- R214, R215: a cycle of a running core always answers a next state, and it latches a fault exactly under the conditions of R214, taken in
the order fetch, decode, execute. -/
def Obligations.FaultsExactlyWhenListed : Prop :=
  ∀ s : State, Running s →
    ∃ u, step s = .next u ∧
      ∀ c : FaultCause, (u.fault.valid = true ∧ u.fault.cause = c) ↔ cycleFault s = some c

/-- R216, R214, R217: a fault is precise: everything but `FAULT` (and the consumed input sample, the model's own: notes/assumptions/1.md) is as
before the cycle, and the latch holds the cause of R214, the address of the faulting instruction and the fetched word, 0 for a fetch fault;
then the core is stopped. That the next `step` answers the outcome `fault` is the model's choice (notes/assumptions/3.md). -/
def Obligations.FaultsArePrecise : Prop :=
  ∀ s u : State, Running s → step s = .next u → u.fault.valid = true →
    OnlyChanges [.fault, .inputs] s u ∧ cycleFault s = some u.fault.cause ∧ u.fault.pc = s.pc ∧
    u.fault.instr = (if 4094 < s.pc.toNat then 0 else wordAtPc s) ∧ step u = .fault (.stopped u.fault.cause)

/-- R217: a stopped core does not step, a cycle request changes nothing, and so does every later one; only Reset clears the
latch. That `step` answers the outcome `fault` is the model's choice (notes/assumptions/3.md); R217: "A model should make the faulted state stuck". -/
def Obligations.StoppedCoreStaysStopped : Prop :=
  ∀ s : State, s.fault.valid = true →
    step s = .fault (.stopped s.fault.cause) ∧ (∀ k, hostApply s (.cycle k) = s) ∧
    (∀ bytes, (hostApply s (.load bytes)).fault = s.fault) ∧ (hostApply s .reset).fault = FaultLatch.clear

/-- R33, R213: a latch that is not valid is clear and a valid one names a cause; every step and every host operation keep that. -/
def Obligations.LatchStaysLegal : Prop :=
  ∀ s : State, LatchLegal s → (∀ u, step s = .next u → LatchLegal u) ∧ ∀ op, LatchLegal (hostApply s op)

/-! ### Whole-machine rules -/

/-- R23: `PC` never passes 0x10FE: every step keeps the bound on `PC` and on the return addresses in use. -/
def Obligations.PcStaysBounded : Prop :=
  ∀ s u : State, PcBounded s → step s = .next u → PcBounded u

/-- R50, R57: memory keeps its canonical form under the configured font, every cell below 4096: every step and every host operation keep it. -/
def Obligations.MemoryStaysCanonical : Prop :=
  ∀ s : State, Memory.wf s.cfg.font s.mem →
    (∀ u, step s = .next u → Memory.wf u.cfg.font u.mem) ∧ ∀ op, Memory.wf (hostApply s op).cfg.font (hostApply s op).mem

/-- The invariants hold at reset. -/
def Obligations.ResetMeetsInvariants : Prop :=
  PcBounded State.reset ∧ LatchLegal State.reset ∧ Memory.wf State.reset.cfg.font State.reset.mem ∧ Running State.reset

/-- R34: nothing changes the configuration, `FONT` among it. -/
def Obligations.ConfigurationIsStatic : Prop :=
  ∀ s : State, (∀ u, step s = .next u → u.cfg = s.cfg) ∧ ∀ op, (hostApply s op).cfg = s.cfg

/-- R23 to R29, R50, R214: an instruction writes no part of the state but those the rules give it: the stack only RET and CALL, the
framebuffer only CLS and DRW, memory only LD B and LD [I], and so on (`writtenParts`). -/
def Obligations.InstructionsWriteOnlyListedParts : Prop :=
  ∀ (i : Instr) (s t : State), exec i s = .next t → OnlyChanges (writtenParts i) s t

/-- R21: `VF` is written only by the six flag-writing instructions, or as a named destination; and every general register only by an
instruction that names it as a destination or, for `VF`, writes it as a flag. -/
def Obligations.OnlySixInstructionsWriteFlag : Prop :=
  ∀ (i : Instr) (s t : State) (r : Nibble), exec i s = .next t → t.readV r ≠ s.readV r →
    writesNamed r i = true ∨ (r = 15 ∧ writesFlag i = true)

/-- R113: for any sequence of at most 16 calls that fit the stack, followed by as many returns, `PC` after each return is the address after
the corresponding call. -/
def Obligations.CallsAndReturnsNest : Prop :=
  ∀ (cs : List (Word × Addr12)) (s : State), Running s → s.sp.val + cs.length ≤ 16 →
    ∃ t, callAll cs s = some t ∧ returnAll cs.length t = some (cs.map Prod.fst).reverse

/-- R27, R28, R229, R232: the stack slots at or above `SP` and `IR` are unobservable through the ports: two states that
differ only there step alike, to states that differ only there, with the same outputs. -/
def Obligations.DeadSlotsAndIrAreUnobservable : Prop :=
  ∀ s t : State, SameButUnobservable s t →
    (∀ u, step s = .next u → ∃ v, step t = .next v ∧ SameButUnobservable u v ∧ outputs u = outputs v) ∧
    (∀ r, step s = .fault r → step t = .fault r)

/-- R65: fetch is coherent with stores: after LD [I], Vx a fetch at two stored bytes gives what was stored. -/
def Obligations.StoredWordIsFetched : Prop :=
  ∀ (x j k : Nibble) (s t : State) (a : Word), s.i.toNat + x.toNat ≤ 4095 → exec (.storeRegs x) s = .next t →
    k.toNat = j.toNat + 1 → k.toNat ≤ x.toNat → a.toNat = s.i.toNat + j.toNat →
      (t.setPc a).fetch = some (s.readV j ++ s.readV k)

/-- R266, R112: a jump to itself changes nothing but `IR` (to its word), the timers and the consumed input; with both timers zero and the
word in `IR` the state is a fixed point. The consumed input
sample is the model's own (notes/assumptions/1.md). -/
def Obligations.SelfJumpIsFixedPoint : Prop :=
  ∀ (s : State) (a : Addr12), Running s → s.pc.toNat = a.toNat → a.toNat ≤ 4094 → wordAtPc s = 0x1#4 ++ a →
    ∃ u, CompletesTo s u ∧ u.ir = 0x1#4 ++ a ∧ u.dt.toNat = s.dt.toNat - 1 ∧ u.st.toNat = s.st.toNat - 1 ∧
      OnlyChanges [.ir, .dt, .st, .inputs] s u ∧
      (s.dt = 0 → s.st = 0 → s.ir = 0x1#4 ++ a → OnlyChanges [.inputs] s u)

/-! ### Reset and load -/

/-- R38, R250: construction and the host's Reset give every piece of state its listed value, `FONT` being the configured table, the loaded
program erased; Reset touches neither the inputs nor the configuration. -/
def Obligations.ResetLeavesListedValues : Prop :=
  HasResetValues State.reset ∧
  ∀ s : State, HasResetValues (hostApply s .reset) ∧ (hostApply s .reset).cfg = s.cfg ∧
    (hostApply s .reset).inputs = s.inputs ∧ (hostApply s .reset).drawn = s.drawn

/-- R254, R255, R256: Load copies at most 3584 bytes to 0x200 and up and changes nothing else. -/
def Obligations.HostLoadCopiesProgram : Prop :=
  ∀ (s : State) (bytes : List Byte),
    (∀ k, k < min bytes.length 3584 → (hostApply s (.load bytes)).readByte (0x200 + k) = bytes.getD k 0) ∧
    KeepsMemOutside 0x200 (min bytes.length 3584) s (hostApply s (.load bytes)) ∧
    OnlyChanges [.mem] s (hostApply s (.load bytes))

/-- R258: with no program the first cycle after reset is an illegal instruction at 0x200. The consumed input sample is the model's own
(notes/assumptions/1.md). -/
def Obligations.FirstCycleWithoutProgramFaults : Prop :=
  ∃ u, step State.reset = .next u ∧
    u.fault = { valid := true, cause := .illegalInstruction, pc := 0x0200, instr := 0x0000 } ∧
    OnlyChanges [.fault, .inputs] State.reset u

/-- R53, R8: at the default configuration memory after reset holds the 16 default glyphs, top row first. R53 marks these bytes as general
knowledge (D20; notes/assumptions/4.md). -/
def Obligations.DefaultFontIsListedTable : Prop :=
  glyphAt State.reset 0x0 = [0xF0, 0x90, 0x90, 0x90, 0xF0] ∧ glyphAt State.reset 0x1 = [0x20, 0x60, 0x20, 0x20, 0x70] ∧
  glyphAt State.reset 0x2 = [0xF0, 0x10, 0xF0, 0x80, 0xF0] ∧ glyphAt State.reset 0x3 = [0xF0, 0x10, 0xF0, 0x10, 0xF0] ∧
  glyphAt State.reset 0x4 = [0x90, 0x90, 0xF0, 0x10, 0x10] ∧ glyphAt State.reset 0x5 = [0xF0, 0x80, 0xF0, 0x10, 0xF0] ∧
  glyphAt State.reset 0x6 = [0xF0, 0x80, 0xF0, 0x90, 0xF0] ∧ glyphAt State.reset 0x7 = [0xF0, 0x10, 0x20, 0x40, 0x40] ∧
  glyphAt State.reset 0x8 = [0xF0, 0x90, 0xF0, 0x90, 0xF0] ∧ glyphAt State.reset 0x9 = [0xF0, 0x90, 0xF0, 0x10, 0xF0] ∧
  glyphAt State.reset 0xA = [0xF0, 0x90, 0xF0, 0x90, 0x90] ∧ glyphAt State.reset 0xB = [0xE0, 0x90, 0xE0, 0x90, 0xE0] ∧
  glyphAt State.reset 0xC = [0xF0, 0x80, 0x80, 0x80, 0xF0] ∧ glyphAt State.reset 0xD = [0xE0, 0x90, 0x90, 0x90, 0xE0] ∧
  glyphAt State.reset 0xE = [0xF0, 0x80, 0xF0, 0x80, 0xF0] ∧ glyphAt State.reset 0xF = [0xF0, 0x80, 0xF0, 0x80, 0x80]
end

