-- ==== Sys2Proof/Laws/Decode.lean ====
section
/-! SUPPORT. The fields of a word put together from its fields (30_encoding.md R81), for each format of R82. -/

namespace Sys2Proof

/-- Format A: OP, NNN. -/
@[simp] theorem opField_addr (o : Nibble) (nnn : Addr12) : opField (o ++ nnn) = o := by
  simp only [opField]; ext k hk
  simp only [BitVec.getElem_extractLsb', BitVec.getLsbD_append]
  rw [if_neg (by omega)]; simp [BitVec.getLsbD_eq_getElem hk]

@[simp] theorem nnnField_addr (o : Nibble) (nnn : Addr12) : nnnField (o ++ nnn) = nnn := by
  simp only [nnnField]; ext k hk
  simp only [BitVec.getElem_extractLsb', BitVec.getLsbD_append]
  rw [if_pos (by omega)]; simp [BitVec.getLsbD_eq_getElem hk]

/-- Format RI: OP, X, NN. -/
@[simp] theorem opField_imm (o x : Nibble) (nn : Byte) : opField (o ++ x ++ nn) = o := by
  simp only [opField]; ext k hk
  simp only [BitVec.getElem_extractLsb', BitVec.getLsbD_append]
  rw [if_neg (by omega), if_neg (by omega)]
  rw [show 12 + k - 8 - 4 = k by omega, BitVec.getLsbD_eq_getElem hk]

@[simp] theorem xField_imm (o x : Nibble) (nn : Byte) : xField (o ++ x ++ nn) = x := by
  simp only [xField]; ext k hk
  simp only [BitVec.getElem_extractLsb', BitVec.getLsbD_append]
  rw [if_neg (by omega), if_pos (by omega)]
  rw [show 8 + k - 8 = k by omega, BitVec.getLsbD_eq_getElem hk]

@[simp] theorem nnField_imm (o x : Nibble) (nn : Byte) : nnField (o ++ x ++ nn) = nn := by
  simp only [nnField]; ext k hk
  simp only [BitVec.getElem_extractLsb', BitVec.getLsbD_append]
  rw [if_pos (by omega)]
  rw [show 0 + k = k by omega, BitVec.getLsbD_eq_getElem hk]

/-- Formats RR and RRN: OP, X, Y, N. -/
@[simp] theorem opField_regs (o x y n : Nibble) : opField (o ++ x ++ y ++ n) = o := by
  simp only [opField]; ext k hk
  simp only [BitVec.getElem_extractLsb', BitVec.getLsbD_append]
  rw [if_neg (by omega), if_neg (by omega), if_neg (by omega)]
  rw [show 12 + k - 4 - 4 - 4 = k by omega, BitVec.getLsbD_eq_getElem hk]

@[simp] theorem xField_regs (o x y n : Nibble) : xField (o ++ x ++ y ++ n) = x := by
  simp only [xField]; ext k hk
  simp only [BitVec.getElem_extractLsb', BitVec.getLsbD_append]
  rw [if_neg (by omega), if_neg (by omega), if_pos (by omega)]
  rw [show 8 + k - 4 - 4 = k by omega, BitVec.getLsbD_eq_getElem hk]

@[simp] theorem yField_regs (o x y n : Nibble) : yField (o ++ x ++ y ++ n) = y := by
  simp only [yField]; ext k hk
  simp only [BitVec.getElem_extractLsb', BitVec.getLsbD_append]
  rw [if_neg (by omega), if_pos (by omega)]
  rw [show 4 + k - 4 = k by omega, BitVec.getLsbD_eq_getElem hk]

@[simp] theorem nField_regs (o x y n : Nibble) : nField (o ++ x ++ y ++ n) = n := by
  simp only [nField]; ext k hk
  simp only [BitVec.getElem_extractLsb', BitVec.getLsbD_append]
  rw [if_pos (by omega)]
  rw [show 0 + k = k by omega, BitVec.getLsbD_eq_getElem hk]

/-! A word is the concatenation of its fields, in each format. -/

theorem word_eq_addr (w : Word) : opField w ++ nnnField w = w := by
  simp only [opField, nnnField]; ext k hk
  simp only [BitVec.getElem_append, BitVec.getElem_extractLsb']
  split <;> (rw [← BitVec.getLsbD_eq_getElem]; congr 1; omega)

theorem word_eq_imm (w : Word) : opField w ++ xField w ++ nnField w = w := by
  simp only [opField, xField, nnField]; ext k hk
  simp only [BitVec.getElem_append, BitVec.getElem_extractLsb']
  split
  · rw [← BitVec.getLsbD_eq_getElem]; congr 1; omega
  · split <;> (rw [← BitVec.getLsbD_eq_getElem]; congr 1; omega)

theorem word_eq_regs (w : Word) : opField w ++ xField w ++ yField w ++ nField w = w := by
  simp only [opField, xField, yField, nField]; ext k hk
  simp only [BitVec.getElem_append, BitVec.getElem_extractLsb']
  split
  · rw [← BitVec.getLsbD_eq_getElem]; congr 1; omega
  · split
    · rw [← BitVec.getLsbD_eq_getElem]; congr 1; omega
    · split <;> (rw [← BitVec.getLsbD_eq_getElem]; congr 1; omega)

end Sys2Proof
end

