-- ==== Sys2Proof/Laws/State.lean ====
section
/-! SUPPORT. One lemma per field and update of the state, each true by rfl, so that no later proof unfolds a record update. -/

namespace Sys2Proof.Machine

@[simp] theorem State.setPc_v (s : State) (a : Word) : (s.setPc a).v = s.v := rfl
@[simp] theorem State.setPc_i (s : State) (a : Word) : (s.setPc a).i = s.i := rfl
@[simp] theorem State.setPc_pc (s : State) (a : Word) : (s.setPc a).pc = a := rfl
@[simp] theorem State.setPc_dt (s : State) (a : Word) : (s.setPc a).dt = s.dt := rfl
@[simp] theorem State.setPc_st (s : State) (a : Word) : (s.setPc a).st = s.st := rfl
@[simp] theorem State.setPc_sp (s : State) (a : Word) : (s.setPc a).sp = s.sp := rfl
@[simp] theorem State.setPc_stack (s : State) (a : Word) : (s.setPc a).stack = s.stack := rfl
@[simp] theorem State.setPc_ir (s : State) (a : Word) : (s.setPc a).ir = s.ir := rfl
@[simp] theorem State.setPc_fb (s : State) (a : Word) : (s.setPc a).fb = s.fb := rfl
@[simp] theorem State.setPc_mem (s : State) (a : Word) : (s.setPc a).mem = s.mem := rfl
@[simp] theorem State.setPc_fault (s : State) (a : Word) : (s.setPc a).fault = s.fault := rfl
@[simp] theorem State.setPc_cfg (s : State) (a : Word) : (s.setPc a).cfg = s.cfg := rfl
@[simp] theorem State.setPc_inputs (s : State) (a : Word) : (s.setPc a).inputs = s.inputs := rfl
@[simp] theorem State.setPc_drawn (s : State) (a : Word) : (s.setPc a).drawn = s.drawn := rfl

@[simp] theorem State.setI_v (s : State) (a : Word) : (s.setI a).v = s.v := rfl
@[simp] theorem State.setI_i (s : State) (a : Word) : (s.setI a).i = a := rfl
@[simp] theorem State.setI_pc (s : State) (a : Word) : (s.setI a).pc = s.pc := rfl
@[simp] theorem State.setI_dt (s : State) (a : Word) : (s.setI a).dt = s.dt := rfl
@[simp] theorem State.setI_st (s : State) (a : Word) : (s.setI a).st = s.st := rfl
@[simp] theorem State.setI_sp (s : State) (a : Word) : (s.setI a).sp = s.sp := rfl
@[simp] theorem State.setI_stack (s : State) (a : Word) : (s.setI a).stack = s.stack := rfl
@[simp] theorem State.setI_ir (s : State) (a : Word) : (s.setI a).ir = s.ir := rfl
@[simp] theorem State.setI_fb (s : State) (a : Word) : (s.setI a).fb = s.fb := rfl
@[simp] theorem State.setI_mem (s : State) (a : Word) : (s.setI a).mem = s.mem := rfl
@[simp] theorem State.setI_fault (s : State) (a : Word) : (s.setI a).fault = s.fault := rfl
@[simp] theorem State.setI_cfg (s : State) (a : Word) : (s.setI a).cfg = s.cfg := rfl
@[simp] theorem State.setI_inputs (s : State) (a : Word) : (s.setI a).inputs = s.inputs := rfl
@[simp] theorem State.setI_drawn (s : State) (a : Word) : (s.setI a).drawn = s.drawn := rfl

@[simp] theorem State.setDt_v (s : State) (b : Byte) : (s.setDt b).v = s.v := rfl
@[simp] theorem State.setDt_i (s : State) (b : Byte) : (s.setDt b).i = s.i := rfl
@[simp] theorem State.setDt_pc (s : State) (b : Byte) : (s.setDt b).pc = s.pc := rfl
@[simp] theorem State.setDt_dt (s : State) (b : Byte) : (s.setDt b).dt = b := rfl
@[simp] theorem State.setDt_st (s : State) (b : Byte) : (s.setDt b).st = s.st := rfl
@[simp] theorem State.setDt_sp (s : State) (b : Byte) : (s.setDt b).sp = s.sp := rfl
@[simp] theorem State.setDt_stack (s : State) (b : Byte) : (s.setDt b).stack = s.stack := rfl
@[simp] theorem State.setDt_ir (s : State) (b : Byte) : (s.setDt b).ir = s.ir := rfl
@[simp] theorem State.setDt_fb (s : State) (b : Byte) : (s.setDt b).fb = s.fb := rfl
@[simp] theorem State.setDt_mem (s : State) (b : Byte) : (s.setDt b).mem = s.mem := rfl
@[simp] theorem State.setDt_fault (s : State) (b : Byte) : (s.setDt b).fault = s.fault := rfl
@[simp] theorem State.setDt_cfg (s : State) (b : Byte) : (s.setDt b).cfg = s.cfg := rfl
@[simp] theorem State.setDt_inputs (s : State) (b : Byte) : (s.setDt b).inputs = s.inputs := rfl
@[simp] theorem State.setDt_drawn (s : State) (b : Byte) : (s.setDt b).drawn = s.drawn := rfl

@[simp] theorem State.setSt_v (s : State) (b : Byte) : (s.setSt b).v = s.v := rfl
@[simp] theorem State.setSt_i (s : State) (b : Byte) : (s.setSt b).i = s.i := rfl
@[simp] theorem State.setSt_pc (s : State) (b : Byte) : (s.setSt b).pc = s.pc := rfl
@[simp] theorem State.setSt_dt (s : State) (b : Byte) : (s.setSt b).dt = s.dt := rfl
@[simp] theorem State.setSt_st (s : State) (b : Byte) : (s.setSt b).st = b := rfl
@[simp] theorem State.setSt_sp (s : State) (b : Byte) : (s.setSt b).sp = s.sp := rfl
@[simp] theorem State.setSt_stack (s : State) (b : Byte) : (s.setSt b).stack = s.stack := rfl
@[simp] theorem State.setSt_ir (s : State) (b : Byte) : (s.setSt b).ir = s.ir := rfl
@[simp] theorem State.setSt_fb (s : State) (b : Byte) : (s.setSt b).fb = s.fb := rfl
@[simp] theorem State.setSt_mem (s : State) (b : Byte) : (s.setSt b).mem = s.mem := rfl
@[simp] theorem State.setSt_fault (s : State) (b : Byte) : (s.setSt b).fault = s.fault := rfl
@[simp] theorem State.setSt_cfg (s : State) (b : Byte) : (s.setSt b).cfg = s.cfg := rfl
@[simp] theorem State.setSt_inputs (s : State) (b : Byte) : (s.setSt b).inputs = s.inputs := rfl
@[simp] theorem State.setSt_drawn (s : State) (b : Byte) : (s.setSt b).drawn = s.drawn := rfl

@[simp] theorem State.setFb_v (s : State) (f : FrameBuffer) : (s.setFb f).v = s.v := rfl
@[simp] theorem State.setFb_i (s : State) (f : FrameBuffer) : (s.setFb f).i = s.i := rfl
@[simp] theorem State.setFb_pc (s : State) (f : FrameBuffer) : (s.setFb f).pc = s.pc := rfl
@[simp] theorem State.setFb_dt (s : State) (f : FrameBuffer) : (s.setFb f).dt = s.dt := rfl
@[simp] theorem State.setFb_st (s : State) (f : FrameBuffer) : (s.setFb f).st = s.st := rfl
@[simp] theorem State.setFb_sp (s : State) (f : FrameBuffer) : (s.setFb f).sp = s.sp := rfl
@[simp] theorem State.setFb_stack (s : State) (f : FrameBuffer) : (s.setFb f).stack = s.stack := rfl
@[simp] theorem State.setFb_ir (s : State) (f : FrameBuffer) : (s.setFb f).ir = s.ir := rfl
@[simp] theorem State.setFb_fb (s : State) (f : FrameBuffer) : (s.setFb f).fb = f := rfl
@[simp] theorem State.setFb_mem (s : State) (f : FrameBuffer) : (s.setFb f).mem = s.mem := rfl
@[simp] theorem State.setFb_fault (s : State) (f : FrameBuffer) : (s.setFb f).fault = s.fault := rfl
@[simp] theorem State.setFb_cfg (s : State) (f : FrameBuffer) : (s.setFb f).cfg = s.cfg := rfl
@[simp] theorem State.setFb_inputs (s : State) (f : FrameBuffer) : (s.setFb f).inputs = s.inputs := rfl
@[simp] theorem State.setFb_drawn (s : State) (f : FrameBuffer) : (s.setFb f).drawn = s.drawn := rfl

@[simp] theorem State.skipIf_v (s : State) (c : Bool) : (s.skipIf c).v = s.v := rfl
@[simp] theorem State.skipIf_i (s : State) (c : Bool) : (s.skipIf c).i = s.i := rfl
@[simp] theorem State.skipIf_pc (s : State) (c : Bool) : (s.skipIf c).pc = if c then s.pc + 2 else s.pc := rfl
@[simp] theorem State.skipIf_dt (s : State) (c : Bool) : (s.skipIf c).dt = s.dt := rfl
@[simp] theorem State.skipIf_st (s : State) (c : Bool) : (s.skipIf c).st = s.st := rfl
@[simp] theorem State.skipIf_sp (s : State) (c : Bool) : (s.skipIf c).sp = s.sp := rfl
@[simp] theorem State.skipIf_stack (s : State) (c : Bool) : (s.skipIf c).stack = s.stack := rfl
@[simp] theorem State.skipIf_ir (s : State) (c : Bool) : (s.skipIf c).ir = s.ir := rfl
@[simp] theorem State.skipIf_fb (s : State) (c : Bool) : (s.skipIf c).fb = s.fb := rfl
@[simp] theorem State.skipIf_mem (s : State) (c : Bool) : (s.skipIf c).mem = s.mem := rfl
@[simp] theorem State.skipIf_fault (s : State) (c : Bool) : (s.skipIf c).fault = s.fault := rfl
@[simp] theorem State.skipIf_cfg (s : State) (c : Bool) : (s.skipIf c).cfg = s.cfg := rfl
@[simp] theorem State.skipIf_inputs (s : State) (c : Bool) : (s.skipIf c).inputs = s.inputs := rfl
@[simp] theorem State.skipIf_drawn (s : State) (c : Bool) : (s.skipIf c).drawn = s.drawn := rfl

@[simp] theorem State.writeV_v (s : State) (x : Nibble) (b : Byte) : (s.writeV x b).v = s.v.set x.toNat b x.isLt := rfl
@[simp] theorem State.writeV_i (s : State) (x : Nibble) (b : Byte) : (s.writeV x b).i = s.i := rfl
@[simp] theorem State.writeV_pc (s : State) (x : Nibble) (b : Byte) : (s.writeV x b).pc = s.pc := rfl
@[simp] theorem State.writeV_dt (s : State) (x : Nibble) (b : Byte) : (s.writeV x b).dt = s.dt := rfl
@[simp] theorem State.writeV_st (s : State) (x : Nibble) (b : Byte) : (s.writeV x b).st = s.st := rfl
@[simp] theorem State.writeV_sp (s : State) (x : Nibble) (b : Byte) : (s.writeV x b).sp = s.sp := rfl
@[simp] theorem State.writeV_stack (s : State) (x : Nibble) (b : Byte) : (s.writeV x b).stack = s.stack := rfl
@[simp] theorem State.writeV_ir (s : State) (x : Nibble) (b : Byte) : (s.writeV x b).ir = s.ir := rfl
@[simp] theorem State.writeV_fb (s : State) (x : Nibble) (b : Byte) : (s.writeV x b).fb = s.fb := rfl
@[simp] theorem State.writeV_mem (s : State) (x : Nibble) (b : Byte) : (s.writeV x b).mem = s.mem := rfl
@[simp] theorem State.writeV_fault (s : State) (x : Nibble) (b : Byte) : (s.writeV x b).fault = s.fault := rfl
@[simp] theorem State.writeV_cfg (s : State) (x : Nibble) (b : Byte) : (s.writeV x b).cfg = s.cfg := rfl
@[simp] theorem State.writeV_inputs (s : State) (x : Nibble) (b : Byte) : (s.writeV x b).inputs = s.inputs := rfl
@[simp] theorem State.writeV_drawn (s : State) (x : Nibble) (b : Byte) : (s.writeV x b).drawn = s.drawn := rfl

@[simp] theorem State.tick_v (s : State) : (s.tick).v = s.v := rfl
@[simp] theorem State.tick_i (s : State) : (s.tick).i = s.i := rfl
@[simp] theorem State.tick_pc (s : State) : (s.tick).pc = s.pc := rfl
@[simp] theorem State.tick_dt (s : State) : (s.tick).dt = decay s.dt := rfl
@[simp] theorem State.tick_st (s : State) : (s.tick).st = decay s.st := rfl
@[simp] theorem State.tick_sp (s : State) : (s.tick).sp = s.sp := rfl
@[simp] theorem State.tick_stack (s : State) : (s.tick).stack = s.stack := rfl
@[simp] theorem State.tick_ir (s : State) : (s.tick).ir = s.ir := rfl
@[simp] theorem State.tick_fb (s : State) : (s.tick).fb = s.fb := rfl
@[simp] theorem State.tick_mem (s : State) : (s.tick).mem = s.mem := rfl
@[simp] theorem State.tick_fault (s : State) : (s.tick).fault = s.fault := rfl
@[simp] theorem State.tick_cfg (s : State) : (s.tick).cfg = s.cfg := rfl
@[simp] theorem State.tick_inputs (s : State) : (s.tick).inputs = s.inputs := rfl
@[simp] theorem State.tick_drawn (s : State) : (s.tick).drawn = s.drawn := rfl

@[simp] theorem State.nextInput_v (s : State) : (s.nextInput).v = s.v := rfl
@[simp] theorem State.nextInput_i (s : State) : (s.nextInput).i = s.i := rfl
@[simp] theorem State.nextInput_pc (s : State) : (s.nextInput).pc = s.pc := rfl
@[simp] theorem State.nextInput_dt (s : State) : (s.nextInput).dt = s.dt := rfl
@[simp] theorem State.nextInput_st (s : State) : (s.nextInput).st = s.st := rfl
@[simp] theorem State.nextInput_sp (s : State) : (s.nextInput).sp = s.sp := rfl
@[simp] theorem State.nextInput_stack (s : State) : (s.nextInput).stack = s.stack := rfl
@[simp] theorem State.nextInput_ir (s : State) : (s.nextInput).ir = s.ir := rfl
@[simp] theorem State.nextInput_fb (s : State) : (s.nextInput).fb = s.fb := rfl
@[simp] theorem State.nextInput_mem (s : State) : (s.nextInput).mem = s.mem := rfl
@[simp] theorem State.nextInput_fault (s : State) : (s.nextInput).fault = s.fault := rfl
@[simp] theorem State.nextInput_cfg (s : State) : (s.nextInput).cfg = s.cfg := rfl
@[simp] theorem State.nextInput_inputs (s : State) : (s.nextInput).inputs = s.inputs.tail := rfl
@[simp] theorem State.nextInput_drawn (s : State) : (s.nextInput).drawn = s.drawn + 1 := rfl

@[simp] theorem State.fetched_v (s : State) (w : Word) : (s.fetched w).v = s.v := rfl
@[simp] theorem State.fetched_i (s : State) (w : Word) : (s.fetched w).i = s.i := rfl
@[simp] theorem State.fetched_pc (s : State) (w : Word) : (s.fetched w).pc = s.pc + 2 := rfl
@[simp] theorem State.fetched_dt (s : State) (w : Word) : (s.fetched w).dt = s.dt := rfl
@[simp] theorem State.fetched_st (s : State) (w : Word) : (s.fetched w).st = s.st := rfl
@[simp] theorem State.fetched_sp (s : State) (w : Word) : (s.fetched w).sp = s.sp := rfl
@[simp] theorem State.fetched_stack (s : State) (w : Word) : (s.fetched w).stack = s.stack := rfl
@[simp] theorem State.fetched_ir (s : State) (w : Word) : (s.fetched w).ir = w := rfl
@[simp] theorem State.fetched_fb (s : State) (w : Word) : (s.fetched w).fb = s.fb := rfl
@[simp] theorem State.fetched_mem (s : State) (w : Word) : (s.fetched w).mem = s.mem := rfl
@[simp] theorem State.fetched_fault (s : State) (w : Word) : (s.fetched w).fault = s.fault := rfl
@[simp] theorem State.fetched_cfg (s : State) (w : Word) : (s.fetched w).cfg = s.cfg := rfl
@[simp] theorem State.fetched_inputs (s : State) (w : Word) : (s.fetched w).inputs = s.inputs := rfl
@[simp] theorem State.fetched_drawn (s : State) (w : Word) : (s.fetched w).drawn = s.drawn := rfl

@[simp] theorem State.takeFault_v (s : State) (c : FaultCause) (pc0 instr : Word) : (s.takeFault c pc0 instr).v = s.v := rfl
@[simp] theorem State.takeFault_i (s : State) (c : FaultCause) (pc0 instr : Word) : (s.takeFault c pc0 instr).i = s.i := rfl
@[simp] theorem State.takeFault_pc (s : State) (c : FaultCause) (pc0 instr : Word) : (s.takeFault c pc0 instr).pc = s.pc := rfl
@[simp] theorem State.takeFault_dt (s : State) (c : FaultCause) (pc0 instr : Word) : (s.takeFault c pc0 instr).dt = s.dt := rfl
@[simp] theorem State.takeFault_st (s : State) (c : FaultCause) (pc0 instr : Word) : (s.takeFault c pc0 instr).st = s.st := rfl
@[simp] theorem State.takeFault_sp (s : State) (c : FaultCause) (pc0 instr : Word) : (s.takeFault c pc0 instr).sp = s.sp := rfl
@[simp] theorem State.takeFault_stack (s : State) (c : FaultCause) (pc0 instr : Word) : (s.takeFault c pc0 instr).stack = s.stack := rfl
@[simp] theorem State.takeFault_ir (s : State) (c : FaultCause) (pc0 instr : Word) : (s.takeFault c pc0 instr).ir = s.ir := rfl
@[simp] theorem State.takeFault_fb (s : State) (c : FaultCause) (pc0 instr : Word) : (s.takeFault c pc0 instr).fb = s.fb := rfl
@[simp] theorem State.takeFault_mem (s : State) (c : FaultCause) (pc0 instr : Word) : (s.takeFault c pc0 instr).mem = s.mem := rfl
@[simp] theorem State.takeFault_fault (s : State) (c : FaultCause) (pc0 instr : Word) : (s.takeFault c pc0 instr).fault = { valid := true, cause := c, pc := pc0, instr := instr } := rfl
@[simp] theorem State.takeFault_cfg (s : State) (c : FaultCause) (pc0 instr : Word) : (s.takeFault c pc0 instr).cfg = s.cfg := rfl
@[simp] theorem State.takeFault_inputs (s : State) (c : FaultCause) (pc0 instr : Word) : (s.takeFault c pc0 instr).inputs = s.inputs := rfl
@[simp] theorem State.takeFault_drawn (s : State) (c : FaultCause) (pc0 instr : Word) : (s.takeFault c pc0 instr).drawn = s.drawn := rfl

@[simp] theorem writeRegsThrough_i (s : State) (x : Nibble) (bs : List Byte) : (writeRegsThrough s x bs).i = s.i := by simp only [writeRegsThrough]
@[simp] theorem writeRegsThrough_pc (s : State) (x : Nibble) (bs : List Byte) : (writeRegsThrough s x bs).pc = s.pc := by simp only [writeRegsThrough]
@[simp] theorem writeRegsThrough_dt (s : State) (x : Nibble) (bs : List Byte) : (writeRegsThrough s x bs).dt = s.dt := by simp only [writeRegsThrough]
@[simp] theorem writeRegsThrough_st (s : State) (x : Nibble) (bs : List Byte) : (writeRegsThrough s x bs).st = s.st := by simp only [writeRegsThrough]
@[simp] theorem writeRegsThrough_sp (s : State) (x : Nibble) (bs : List Byte) : (writeRegsThrough s x bs).sp = s.sp := by simp only [writeRegsThrough]
@[simp] theorem writeRegsThrough_stack (s : State) (x : Nibble) (bs : List Byte) : (writeRegsThrough s x bs).stack = s.stack := by simp only [writeRegsThrough]
@[simp] theorem writeRegsThrough_ir (s : State) (x : Nibble) (bs : List Byte) : (writeRegsThrough s x bs).ir = s.ir := by simp only [writeRegsThrough]
@[simp] theorem writeRegsThrough_fb (s : State) (x : Nibble) (bs : List Byte) : (writeRegsThrough s x bs).fb = s.fb := by simp only [writeRegsThrough]
@[simp] theorem writeRegsThrough_mem (s : State) (x : Nibble) (bs : List Byte) : (writeRegsThrough s x bs).mem = s.mem := by simp only [writeRegsThrough]
@[simp] theorem writeRegsThrough_fault (s : State) (x : Nibble) (bs : List Byte) : (writeRegsThrough s x bs).fault = s.fault := by simp only [writeRegsThrough]
@[simp] theorem writeRegsThrough_cfg (s : State) (x : Nibble) (bs : List Byte) : (writeRegsThrough s x bs).cfg = s.cfg := by simp only [writeRegsThrough]
@[simp] theorem writeRegsThrough_inputs (s : State) (x : Nibble) (bs : List Byte) : (writeRegsThrough s x bs).inputs = s.inputs := by simp only [writeRegsThrough]
@[simp] theorem writeRegsThrough_drawn (s : State) (x : Nibble) (bs : List Byte) : (writeRegsThrough s x bs).drawn = s.drawn := by simp only [writeRegsThrough]

@[simp] theorem advanceIndex_v (s : State) (x : Nibble) : (advanceIndex s x).v = s.v := rfl
@[simp] theorem advanceIndex_pc (s : State) (x : Nibble) : (advanceIndex s x).pc = s.pc := rfl
@[simp] theorem advanceIndex_dt (s : State) (x : Nibble) : (advanceIndex s x).dt = s.dt := rfl
@[simp] theorem advanceIndex_st (s : State) (x : Nibble) : (advanceIndex s x).st = s.st := rfl
@[simp] theorem advanceIndex_sp (s : State) (x : Nibble) : (advanceIndex s x).sp = s.sp := rfl
@[simp] theorem advanceIndex_stack (s : State) (x : Nibble) : (advanceIndex s x).stack = s.stack := rfl
@[simp] theorem advanceIndex_ir (s : State) (x : Nibble) : (advanceIndex s x).ir = s.ir := rfl
@[simp] theorem advanceIndex_fb (s : State) (x : Nibble) : (advanceIndex s x).fb = s.fb := rfl
@[simp] theorem advanceIndex_mem (s : State) (x : Nibble) : (advanceIndex s x).mem = s.mem := rfl
@[simp] theorem advanceIndex_fault (s : State) (x : Nibble) : (advanceIndex s x).fault = s.fault := rfl
@[simp] theorem advanceIndex_cfg (s : State) (x : Nibble) : (advanceIndex s x).cfg = s.cfg := rfl
@[simp] theorem advanceIndex_inputs (s : State) (x : Nibble) : (advanceIndex s x).inputs = s.inputs := rfl
@[simp] theorem advanceIndex_drawn (s : State) (x : Nibble) : (advanceIndex s x).drawn = s.drawn := rfl

@[simp] theorem writeResultAndFlag_i (s : State) (x : Nibble) (r : Byte) (c : Bool) : (writeResultAndFlag s x r c).i = s.i := rfl
@[simp] theorem writeResultAndFlag_pc (s : State) (x : Nibble) (r : Byte) (c : Bool) : (writeResultAndFlag s x r c).pc = s.pc := rfl
@[simp] theorem writeResultAndFlag_dt (s : State) (x : Nibble) (r : Byte) (c : Bool) : (writeResultAndFlag s x r c).dt = s.dt := rfl
@[simp] theorem writeResultAndFlag_st (s : State) (x : Nibble) (r : Byte) (c : Bool) : (writeResultAndFlag s x r c).st = s.st := rfl
@[simp] theorem writeResultAndFlag_sp (s : State) (x : Nibble) (r : Byte) (c : Bool) : (writeResultAndFlag s x r c).sp = s.sp := rfl
@[simp] theorem writeResultAndFlag_stack (s : State) (x : Nibble) (r : Byte) (c : Bool) : (writeResultAndFlag s x r c).stack = s.stack := rfl
@[simp] theorem writeResultAndFlag_ir (s : State) (x : Nibble) (r : Byte) (c : Bool) : (writeResultAndFlag s x r c).ir = s.ir := rfl
@[simp] theorem writeResultAndFlag_fb (s : State) (x : Nibble) (r : Byte) (c : Bool) : (writeResultAndFlag s x r c).fb = s.fb := rfl
@[simp] theorem writeResultAndFlag_mem (s : State) (x : Nibble) (r : Byte) (c : Bool) : (writeResultAndFlag s x r c).mem = s.mem := rfl
@[simp] theorem writeResultAndFlag_fault (s : State) (x : Nibble) (r : Byte) (c : Bool) : (writeResultAndFlag s x r c).fault = s.fault := rfl
@[simp] theorem writeResultAndFlag_cfg (s : State) (x : Nibble) (r : Byte) (c : Bool) : (writeResultAndFlag s x r c).cfg = s.cfg := rfl
@[simp] theorem writeResultAndFlag_inputs (s : State) (x : Nibble) (r : Byte) (c : Bool) : (writeResultAndFlag s x r c).inputs = s.inputs := rfl
@[simp] theorem writeResultAndFlag_drawn (s : State) (x : Nibble) (r : Byte) (c : Bool) : (writeResultAndFlag s x r c).drawn = s.drawn := rfl

/-! ### Reads of a register, a byte and the inputs after an update -/

@[simp] theorem State.setPc_readV (s : State) (a : Word) (r : Nibble) : (s.setPc a).readV r = s.readV r := rfl
@[simp] theorem State.setPc_readByte (s : State) (a : Word) (k : Nat) : (s.setPc a).readByte k = s.readByte k := rfl
@[simp] theorem State.setI_readV (s : State) (a : Word) (r : Nibble) : (s.setI a).readV r = s.readV r := rfl
@[simp] theorem State.setI_readByte (s : State) (a : Word) (k : Nat) : (s.setI a).readByte k = s.readByte k := rfl
@[simp] theorem State.setDt_readV (s : State) (b : Byte) (r : Nibble) : (s.setDt b).readV r = s.readV r := rfl
@[simp] theorem State.setDt_readByte (s : State) (b : Byte) (k : Nat) : (s.setDt b).readByte k = s.readByte k := rfl
@[simp] theorem State.setSt_readV (s : State) (b : Byte) (r : Nibble) : (s.setSt b).readV r = s.readV r := rfl
@[simp] theorem State.setSt_readByte (s : State) (b : Byte) (k : Nat) : (s.setSt b).readByte k = s.readByte k := rfl
@[simp] theorem State.setFb_readV (s : State) (f : FrameBuffer) (r : Nibble) : (s.setFb f).readV r = s.readV r := rfl
@[simp] theorem State.setFb_readByte (s : State) (f : FrameBuffer) (k : Nat) : (s.setFb f).readByte k = s.readByte k := rfl
@[simp] theorem State.skipIf_readV (s : State) (c : Bool) (r : Nibble) : (s.skipIf c).readV r = s.readV r := rfl
@[simp] theorem State.skipIf_readByte (s : State) (c : Bool) (k : Nat) : (s.skipIf c).readByte k = s.readByte k := rfl
@[simp] theorem State.writeV_readByte (s : State) (x : Nibble) (b : Byte) (k : Nat) : (s.writeV x b).readByte k = s.readByte k := rfl
@[simp] theorem State.tick_readV (s : State) (r : Nibble) : (s.tick).readV r = s.readV r := rfl
@[simp] theorem State.tick_readByte (s : State) (k : Nat) : (s.tick).readByte k = s.readByte k := rfl
@[simp] theorem State.nextInput_readV (s : State) (r : Nibble) : (s.nextInput).readV r = s.readV r := rfl
@[simp] theorem State.nextInput_readByte (s : State) (k : Nat) : (s.nextInput).readByte k = s.readByte k := rfl
@[simp] theorem State.fetched_readV (s : State) (w : Word) (r : Nibble) : (s.fetched w).readV r = s.readV r := rfl
@[simp] theorem State.fetched_readByte (s : State) (w : Word) (k : Nat) : (s.fetched w).readByte k = s.readByte k := rfl
@[simp] theorem State.takeFault_readV (s : State) (c : FaultCause) (pc0 instr : Word) (r : Nibble) : (s.takeFault c pc0 instr).readV r = s.readV r := rfl
@[simp] theorem State.takeFault_readByte (s : State) (c : FaultCause) (pc0 instr : Word) (k : Nat) : (s.takeFault c pc0 instr).readByte k = s.readByte k := rfl

@[simp] theorem advanceIndex_readV (s : State) (x r : Nibble) : (advanceIndex s x).readV r = s.readV r := rfl
@[simp] theorem advanceIndex_readByte (s : State) (x : Nibble) (k : Nat) : (advanceIndex s x).readByte k = s.readByte k := rfl
@[simp] theorem writeRegsThrough_readByte (s : State) (x : Nibble) (bs : List Byte) (k : Nat) : (writeRegsThrough s x bs).readByte k = s.readByte k := by simp only [writeRegsThrough, State.readByte]
@[simp] theorem writeResultAndFlag_readByte (s : State) (x : Nibble) (r : Byte) (c : Bool) (k : Nat) : (writeResultAndFlag s x r c).readByte k = s.readByte k := rfl

/-- A register write changes that register and no other (10_state.md R20). -/
@[simp] theorem State.writeV_readV (s : State) (x r : Nibble) (b : Byte) :
    (s.writeV x b).readV r = if x = r then b else s.readV r := by
  simp [State.writeV, State.readV, Vector.getElem_set, BitVec.toNat_inj]

/-- After a flag-writing instruction `VF` holds the flag, whatever the destination (30_encoding.md R84). -/
@[simp] theorem writeResultAndFlag_readV (s : State) (x r : Nibble) (b : Byte) (c : Bool) :
    (writeResultAndFlag s x b c).readV r =
      if r = flagReg then flagByte c else if r = x then b else s.readV r := by
  simp only [writeResultAndFlag, State.writeV_readV, eq_comm]

/-- The bulk load writes the registers up to X and keeps the others (42_index_memory.md R166). -/
theorem writeRegsThrough_readV (s : State) (x r : Nibble) (bs : List Byte) :
    (writeRegsThrough s x bs).readV r = if r.toNat ≤ x.toNat then bs.getD r.toNat 0 else s.readV r := by
  simp [writeRegsThrough, loadedRegs, State.readV]

/-- Driven inputs are the cycle's sample (10_state.md R31). -/
@[simp] theorem State.keys_of_cons (s : State) (k : Inputs) (ks : List Inputs) (h : s.inputs = k :: ks) : s.keys = k.keys := by
  simp [State.keys, h]

/-- Driven inputs are the cycle's sample (10_state.md R32). -/
@[simp] theorem State.rnd_of_cons (s : State) (k : Inputs) (ks : List Inputs) (h : s.inputs = k :: ks) : s.rnd = k.rnd := by
  simp [State.rnd, h]

end Sys2Proof.Machine
end

