-- ==== Sys2Proof/Laws/Ops.lean ====
section
/-! SUPPORT. What each shared operation answers: the call stack, the framebuffer, the keypad scan, the timers. -/

namespace Sys2Proof.Machine

/-! ### Call stack (10_state.md R27) -/

theorem State.push_eq_none {s : State} {a : Word} : s.push a = none ↔ s.sp.val = 16 := by
  have hsp := s.sp.isLt
  unfold State.push
  split
  · simp only [reduceCtorEq, false_iff]; omega
  · simp only [true_iff]; omega

/-- What a push answers: the slot at `SP` written, `SP` one more (40_control_flow.md R113). -/
theorem State.push_of_lt {s : State} (a : Word) (h : s.sp.val < 16) :
    s.push a = some { s with stack := s.stack.set s.sp.val a h, sp := ⟨s.sp.val + 1, Nat.succ_lt_succ h⟩ } := by
  simp [State.push, h]

theorem State.pop_eq_none {s : State} : s.pop = none ↔ s.sp.val = 0 := by
  unfold State.pop
  split
  · rename_i h; simp only [true_iff]; exact congrArg Fin.val h
  · rename_i h; simp only [reduceCtorEq, false_iff]; exact fun h1 => h (Fin.ext h1)

/-- What a pop answers: the slot below `SP`, which becomes the new `SP` (40_control_flow.md R111). -/
theorem State.pop_of_succ {s : State} (j : Fin 16) (h : s.sp.val = j.val + 1) :
    s.pop = some (s.stack[j], { s with sp := j.castSucc }) := by
  have h0 : s.sp ≠ 0 := fun h1 => absurd h (by rw [h1]; exact (Nat.succ_ne_zero _).symm)
  have hp : s.sp.pred h0 = j := Fin.ext (by simp [h])
  unfold State.pop
  rw [dif_neg h0]
  simp only [hp]; rfl

/-! ### Keypad (44_keypad_timers.md R194) -/

theorem leastKey_eq_some {keys : Word} {k : Nat} :
    leastKey keys = some k ↔ k < 16 ∧ keys.getLsbD k = true ∧ ∀ j < k, keys.getLsbD j = false := by
  unfold leastKey keyDown
  rw [List.find?_range_eq_some]
  simp [and_left_comm]

theorem leastKey_eq_none {keys : Word} : leastKey keys = none ↔ keys = 0 := by
  unfold leastKey keyDown
  rw [List.find?_eq_none]
  constructor
  · intro h; ext k hk
    have := h k (by simpa using hk)
    simpa [BitVec.getLsbD_eq_getElem hk] using this
  · rintro rfl; simp

/-! ### Framebuffer (43_display.md R180) -/

/-- Toggling a cell changes that cell and no other, the coordinates folded (43_display.md R182). -/
theorem FrameBuffer.pixel_flipPixel (f : FrameBuffer) (a b x y : Nat) :
    FrameBuffer.pixel (FrameBuffer.flipPixel f a b) x y =
      (FrameBuffer.pixel f x y != decide (x % 64 = a % 64 ∧ y % 32 = b % 32)) := by
  have hx : x % 64 < 64 := Nat.mod_lt _ (by decide)
  simp only [FrameBuffer.pixel, FrameBuffer.flipPixel, Config.width, Config.height, Vector.getElem_set]
  by_cases hy : b % 32 = y % 32
  · simp only [hy, if_true, BitVec.getLsbD_xor, BitVec.getLsbD_twoPow, and_true]
    by_cases hxa : a % 64 = x % 64
    · have ha : a % 64 < 64 := Nat.mod_lt _ (by decide)
      simp [hxa, hx]
    · simp [hxa, Ne.symm hxa]
  · simp [hy, Ne.symm hy]

theorem FrameBuffer.pixel_blank (x y : Nat) : FrameBuffer.pixel FrameBuffer.blank x y = false := by
  simp [FrameBuffer.pixel, FrameBuffer.blank]

/-- Two framebuffers with the same cells are the same. -/
theorem FrameBuffer.ext_pixel {f g : FrameBuffer}
    (h : ∀ x y, x < 64 → y < 32 → FrameBuffer.pixel f x y = FrameBuffer.pixel g x y) : f = g := by
  apply Vector.ext; intro y hy
  apply BitVec.eq_of_getLsbD_eq; intro x hx
  have := h x y hx hy
  simpa [FrameBuffer.pixel, Config.width, Config.height, Nat.mod_eq_of_lt hx, Nat.mod_eq_of_lt hy] using this

/-! ### Timers (60_exceptions.md R222) -/

theorem decay_toNat (t : Byte) : (decay t).toNat = t.toNat - 1 := by
  unfold decay
  split
  · rename_i h; subst h; rfl
  · rename_i h
    have h0 : t.toNat ≠ 0 := fun h1 => h (BitVec.eq_of_toNat_eq (by simpa using h1))
    have := t.isLt
    rw [BitVec.toNat_sub]; simp; omega

/-! ### The cycle (60_exceptions.md R211) -/

/-- A completing instruction: the timers tick and the input sample is consumed. -/
theorem endOfCycle_of_running (s t : State) (h : t.fault.valid = false) : endOfCycle s t = t.tick.nextInput := by
  simp [endOfCycle, h]

/-- A faulting instruction: the state before the cycle with the latch (60_exceptions.md R216). -/
theorem endOfCycle_of_faulted (s t : State) (h : t.fault.valid = true) :
    endOfCycle s t = { s.nextInput with fault := t.fault } := by
  simp [endOfCycle, h]

end Sys2Proof.Machine
end

