-- ==== Sys2Proof/Laws/Display.lean ====
section
/-! SUPPORT. What drawing a sprite does to every cell and when it collides (43_display.md R182): a row of 8 columns, then rows. -/

open scoped Classical

namespace Sys2Proof.Machine

/-- Column `c` of a sprite byte drawn at column `x` and row `y` is a set bit that falls on cell (px, py). -/
abbrev RowCovers (b : Byte) (x y px py c : Nat) : Prop :=
  b.getLsbD (7 - c) = true ∧ px % 64 = (x + c) % 64 ∧ py % 32 = y % 32

/-- Row `r` of a sprite drawn at (x, y) covers cell (px, py). -/
abbrev RowsCover (bs : List Byte) (x y px py r : Nat) : Prop := ∃ c < 8, RowCovers (bs.getD r 0) x (y + r) px py c

theorem FrameBuffer.pixel_mod (f : FrameBuffer) (x y : Nat) : f.pixel (x % 64) (y % 32) = f.pixel x y := by
  simp [FrameBuffer.pixel, Config.width, Config.height]

/-- The first `n` columns of a row: the cells under set bits are toggled, the collision is kept or set by a cell that was on. -/
theorem drawColumns (b : Byte) (x y : Nat) (d : FrameBuffer × Bool) (n : Nat) (hn : n ≤ 8) :
    (∀ px py, ((List.range n).foldl (drawBit b x y) d).1.pixel px py =
      (d.1.pixel px py != decide (∃ c < n, RowCovers b x y px py c))) ∧
    ((List.range n).foldl (drawBit b x y) d).2 =
      (d.2 || decide (∃ c < n, b.getLsbD (7 - c) = true ∧ d.1.pixel (x + c) y = true)) := by
  induction n with
  | zero => simp
  | succ n ih =>
    obtain ⟨ih1, ih2⟩ := ih (by omega)
    rw [List.range_succ, List.foldl_append, List.foldl_cons, List.foldl_nil]
    generalize hd : (List.range n).foldl (drawBit b x y) d = e at ih1 ih2
    have hsucc : ∀ p : Nat → Prop, (∃ c < n + 1, p c) ↔ (∃ c < n, p c) ∨ p n := by
      intro p; constructor
      · rintro ⟨c, hc, h⟩
        rcases Nat.lt_succ_iff_lt_or_eq.1 hc with h' | rfl
        · exact .inl ⟨c, h', h⟩
        · exact .inr h
      · rintro (⟨c, hc, h⟩ | h)
        · exact ⟨c, by omega, h⟩
        · exact ⟨n, by omega, h⟩
    unfold drawBit
    by_cases hb : b.getLsbD (7 - n) = true
    · rw [if_pos hb]
      constructor
      · intro px py
        simp only [FrameBuffer.pixel_flipPixel, ih1]
        by_cases hcell : px % 64 = (x + n) % 64 ∧ py % 32 = y % 32
        · have h1 : ¬∃ c < n, RowCovers b x y px py c := by
            rintro ⟨c, hc, _, hx, _⟩; omega
          have h2 : ∃ c < n + 1, RowCovers b x y px py c := ⟨n, by omega, hb, hcell⟩
          simp only [h1, h2, hcell, and_self, decide_true, decide_false, Bool.bne_false]
        · have h2 : (∃ c < n + 1, RowCovers b x y px py c) ↔ ∃ c < n, RowCovers b x y px py c := by
            rw [hsucc]; exact or_iff_left fun h => hcell h.2
          simp only [h2, hcell, decide_false, Bool.bne_false]
      · have h1 : ¬∃ c < n, RowCovers b x y (x + n) y c := by
          rintro ⟨c, hc, _, hx, _⟩; omega
        simp only [ih1, ih2, h1, decide_false, Bool.bne_false, hsucc, hb, true_and, Bool.decide_or,
          Bool.decide_eq_true, Bool.or_assoc]
    · rw [if_neg hb]
      have hn' : ∀ p : Nat → Prop, (p n → b.getLsbD (7 - n) = true) → ((∃ c < n + 1, p c) ↔ ∃ c < n, p c) := by
        intro p hp; rw [hsucc]; exact or_iff_left fun h => hb (hp h)
      refine ⟨fun px py => ?_, ?_⟩
      · rw [ih1]; simp only [hn' (RowCovers b x y px py) (fun h => h.1)]
      · rw [ih2]; simp only [hn' (fun c => b.getLsbD (7 - c) = true ∧ d.1.pixel (x + c) y = true) (fun h => h.1)]

/-- A row toggles exactly the cells under its set bits (43_display.md R182). -/
theorem drawRow_pixel (b : Byte) (x y : Nat) (d : FrameBuffer × Bool) (px py : Nat) :
    (drawRow b x y d).1.pixel px py = (d.1.pixel px py != decide (∃ c < 8, RowCovers b x y px py c)) := by
  rw [drawRow]; convert (drawColumns b x y d 8 (by decide)).1 px py

/-- A row collides iff a cell under one of its set bits was on (43_display.md R182). -/
theorem drawRow_collision (b : Byte) (x y : Nat) (d : FrameBuffer × Bool) :
    (drawRow b x y d).2 = (d.2 || decide (∃ c < 8, b.getLsbD (7 - c) = true ∧ d.1.pixel (x + c) y = true)) := by
  rw [drawRow]; convert (drawColumns b x y d 8 (by decide)).2

/-- Rows: a sprite of at most 32 rows toggles exactly the cells under its set bits, and collides iff one of those cells was on. -/
theorem drawRows_spec (x : Nat) (bs : List Byte) (y : Nat) (d : FrameBuffer × Bool) (h : bs.length ≤ 32) :
    (∀ px py, (drawRows x y bs d).1.pixel px py =
      (d.1.pixel px py != decide (∃ r < bs.length, RowsCover bs x y px py r))) ∧
    (drawRows x y bs d).2 =
      (d.2 || decide (∃ r < bs.length, ∃ c < 8, (bs.getD r 0).getLsbD (7 - c) = true ∧ d.1.pixel (x + c) (y + r) = true)) := by
  induction bs generalizing y d with
  | nil => simp [drawRows]
  | cons b bs ih =>
    obtain ⟨ih1, ih2⟩ := ih (y + 1) (drawRow b x y d) (by simp at h; omega)
    have hsucc : ∀ p : Nat → Prop, (∃ r < (b :: bs).length, p r) ↔ p 0 ∨ ∃ r < bs.length, p (r + 1) := by
      intro p; constructor
      · rintro ⟨r, hr, hp⟩
        cases r with
        | zero => exact .inl hp
        | succ r => exact .inr ⟨r, by simpa using hr, hp⟩
      · rintro (hp | ⟨r, hr, hp⟩)
        · exact ⟨0, by simp, hp⟩
        · exact ⟨r + 1, by simpa using hr, hp⟩
    have hlater : ∀ px py r, RowsCover bs x (y + 1) px py r ↔ RowsCover (b :: bs) x y px py (r + 1) := by
      intro px py r
      simp only [RowsCover, List.getD_cons_succ, show y + (r + 1) = y + 1 + r by omega]
    have hfirst : ∀ px py, RowsCover (b :: bs) x y px py 0 ↔ ∃ c < 8, RowCovers b x y px py c := by
      intro px py; simp [RowsCover]
    -- a later row is another row of the screen
    have hexcl : ∀ px py, (∃ c < 8, RowCovers b x y px py c) → ¬∃ r < bs.length, RowsCover bs x (y + 1) px py r := by
      rintro px py ⟨_, _, _, _, hy⟩ ⟨r, hr, _, _, _, _, hy'⟩
      simp at h; omega
    unfold drawRows
    constructor
    · intro px py
      rw [ih1, drawRow_pixel]
      simp only [hsucc, hfirst, ← hlater]
      have he := hexcl px py
      by_cases h1 : ∃ c < 8, RowCovers b x y px py c
      · simp only [h1, he h1, decide_true, decide_false, Bool.bne_false, or_false]
      · simp only [h1, decide_false, Bool.bne_false, false_or]
    · rw [ih2, drawRow_collision]
      have hkeep : ∀ r, r < bs.length → ∀ c, (drawRow b x y d).1.pixel (x + c) (y + 1 + r) = d.1.pixel (x + c) (y + 1 + r) := by
        intro r hr c
        have : ¬∃ c' < 8, RowCovers b x y (x + c) (y + 1 + r) c' := by
          rintro ⟨_, _, _, _, hy⟩; simp at h; omega
        rw [drawRow_pixel]; simp only [this, decide_false, Bool.bne_false]
      have hiff : (∃ r < bs.length, ∃ c < 8, (bs.getD r 0).getLsbD (7 - c) = true ∧
            (drawRow b x y d).1.pixel (x + c) (y + 1 + r) = true) ↔
          ∃ r < bs.length, ∃ c < 8, ((b :: bs).getD (r + 1) 0).getLsbD (7 - c) = true ∧
            d.1.pixel (x + c) (y + (r + 1)) = true := by
        refine exists_congr fun r => and_congr_right fun hr => exists_congr fun c => ?_
        rw [hkeep r hr, List.getD_cons_succ, show y + 1 + r = y + (r + 1) by omega]
      simp only [hiff, hsucc, Bool.decide_or, Bool.or_assoc, List.getD_cons_zero, Nat.add_zero]
      congr

end Sys2Proof.Machine
end

