-- ==== Sys2Proof/Laws/Memory.lean ====
section
/-! SUPPORT. The laws of memory: a read after a write, the canonical form, and what the checked transfers answer (20_memory.md). -/

namespace Sys2Proof.Machine

/-- The font region holds the font after reset (20_memory.md R51, R52). -/
theorem resetByte_font (f : FontTable) (j : Fin 80) : resetByte f (0x50 + j.val) = f[j] := by
  have hj := j.isLt
  simp [resetByte, Config.fontBase, List.getD_eq_getElem?_getD, hj]

/-- Every other cell is zero after reset (20_memory.md R51). -/
theorem resetByte_zero (f : FontTable) {a : Nat} (h : a < 0x50 ∨ 0xA0 ≤ a) : resetByte f a = 0 := by
  unfold resetByte Config.fontBase
  split
  · rw [List.getD_eq_getElem?_getD, List.getElem?_eq_none (by simp; omega)]; rfl
  · rfl

theorem Memory.read_erase (f : FontTable) (m : Memory) (a k : Nat) :
    Memory.read f (Memory.erase m a) k = if k = a then resetByte f k else Memory.read f m k := by
  induction m with
  | nil => simp [Memory.erase, Memory.read]
  | cons c m ih =>
    obtain ⟨j, b⟩ := c
    simp only [Memory.erase] at ih
    simp only [Memory.erase, List.filter_cons, Memory.read]
    by_cases hj : j = a
    · subst hj
      simp only [bne_self_eq_false, Bool.false_eq_true, if_false, ih]
      by_cases hk : k = j
      · simp [hk]
      · simp [hk, Ne.symm hk]
    · simp only [bne_iff_ne, ne_eq, hj, not_false_eq_true, if_true, Memory.read, ih]
      by_cases hk : j = k
      · subst hk; simp [hj]
      · simp [hk]

theorem Memory.read_insert (f : FontTable) (m : Memory) (a k : Nat) (b : Byte) (h : ∀ c ∈ m, c.1 ≠ a) :
    Memory.read f (Memory.insert a b m) k = if k = a then b else Memory.read f m k := by
  induction m with
  | nil => simp only [Memory.insert, Memory.read, eq_comm]
  | cons c m ih =>
    obtain ⟨j, d⟩ := c
    have hj : j ≠ a := h (j, d) (by simp)
    have ih := ih fun c hc => h c (by simp [hc])
    by_cases haj : a < j
    · simp only [Memory.insert, haj, if_true, Memory.read, eq_comm]
    · simp only [Memory.insert, haj, if_false, Memory.read, ih]
      by_cases hk : j = k
      · subst hk; simp [hj]
      · simp [hk]

/-- A read after a write gives the value written, and a write leaves every other address alone (20_memory.md R60, R62 (c)). -/
@[simp] theorem Memory.read_write (f : FontTable) (m : Memory) (a k : Nat) (b : Byte) :
    Memory.read f (Memory.write f m a b) k = if k = a then b else Memory.read f m k := by
  unfold Memory.write
  split
  · rename_i h; subst h; rw [Memory.read_erase]; split <;> simp_all
  · rw [Memory.read_insert, Memory.read_erase]
    · split <;> rfl
    · intro c hc; simp only [Memory.erase, List.mem_filter, bne_iff_ne, ne_eq] at hc; exact hc.2

/-- A transfer of bytes writes them at ascending addresses and nothing else (20_memory.md R56). -/
theorem Memory.read_writeBytes (f : FontTable) (bs : List Byte) (m : Memory) (a k : Nat) :
    Memory.read f (Memory.writeBytes f m a bs) k =
      if a ≤ k ∧ k < a + bs.length then bs.getD (k - a) 0 else Memory.read f m k := by
  induction bs generalizing m a with
  | nil => simp [Memory.writeBytes]
  | cons b bs ih =>
    simp only [Memory.writeBytes, ih, Memory.read_write, List.length_cons]
    by_cases hk : k = a
    · subst hk; simp
    · by_cases hin : a + 1 ≤ k ∧ k < a + 1 + bs.length
      · have h2 : a ≤ k ∧ k < a + (bs.length + 1) := by omega
        have h3 : k - a = (k - (a + 1)) + 1 := by omega
        rw [if_pos hin, if_pos h2, h3, List.getD_cons_succ]
      · have h2 : ¬(a ≤ k ∧ k < a + (bs.length + 1)) := by omega
        rw [if_neg hin, if_neg h2, if_neg hk]

@[simp] theorem Memory.readBytes_length (f : FontTable) (m : Memory) (a n : Nat) : (Memory.readBytes f m a n).length = n := by
  induction n generalizing a with
  | zero => rfl
  | succ n ih => simp [Memory.readBytes, ih]

theorem Memory.readBytes_getD (f : FontTable) (m : Memory) (a n k : Nat) (h : k < n) :
    (Memory.readBytes f m a n).getD k 0 = Memory.read f m (a + k) := by
  induction n generalizing a k with
  | zero => omega
  | succ n ih =>
    cases k with
    | zero => simp [Memory.readBytes]
    | succ k =>
      rw [Memory.readBytes, List.getD_cons_succ, ih (a + 1) k (by omega)]
      congr 1; omega

theorem Memory.wf_erase {f : FontTable} {m : Memory} (h : Memory.wf f m) (a : Nat) : Memory.wf f (Memory.erase m a) :=
  ⟨h.1.filter _, fun c hc => h.2 c (List.mem_filter.1 hc).1⟩

theorem Memory.mem_insert {m : Memory} {a : Nat} {b : Byte} {c : Host.Cell} (h : c ∈ Memory.insert a b m) :
    c = (a, b) ∨ c ∈ m := by
  induction m with
  | nil => simpa [Memory.insert] using h
  | cons d m ih =>
    obtain ⟨j, e⟩ := d
    simp only [Memory.insert] at h
    split at h
    · simpa using h
    · rcases List.mem_cons.1 h with h | h
      · exact .inr (by simp [h])
      · rcases ih h with h | h
        · exact .inl h
        · exact .inr (by simp [h])

theorem Memory.rising_insert {m : Memory} {a : Nat} {b : Byte}
    (h : List.Pairwise (fun c d : Host.Cell => c.1 < d.1) m) (ha : ∀ c ∈ m, c.1 ≠ a) :
    List.Pairwise (fun c d : Host.Cell => c.1 < d.1) (Memory.insert a b m) := by
  induction m with
  | nil => simp [Memory.insert]
  | cons d m ih =>
    obtain ⟨j, e⟩ := d
    rw [List.pairwise_cons] at h
    have hj : j ≠ a := ha (j, e) (by simp)
    simp only [Memory.insert]
    split
    · rename_i haj
      refine List.pairwise_cons.2 ⟨?_, List.pairwise_cons.2 h⟩
      intro c hc
      rcases List.mem_cons.1 hc with rfl | hc
      · exact haj
      · exact Nat.lt_trans haj (h.1 c hc)
    · rename_i haj
      refine List.pairwise_cons.2 ⟨?_, ih h.2 fun c hc => ha c (by simp [hc])⟩
      intro c hc
      rcases Memory.mem_insert hc with rfl | hc
      · show j < a; omega
      · exact h.1 c hc

/-- A write inside the address space keeps the canonical form. -/
theorem Memory.wf_write {f : FontTable} {m : Memory} (h : Memory.wf f m) {a : Nat} (ha : a < Config.memSize) (b : Byte) :
    Memory.wf f (Memory.write f m a b) := by
  unfold Memory.write
  have he := Memory.wf_erase h a
  split
  · exact he
  · rename_i hb
    have hne : ∀ c ∈ Memory.erase m a, c.1 ≠ a := fun c hc => by
      simp only [Memory.erase, List.mem_filter, bne_iff_ne, ne_eq] at hc; exact hc.2
    refine ⟨Memory.rising_insert he.1 hne, fun c hc => ?_⟩
    rcases Memory.mem_insert hc with rfl | hc
    · exact ⟨ha, hb⟩
    · exact he.2 c hc

/-- A transfer inside the address space keeps the canonical form. -/
theorem Memory.wf_writeBytes {f : FontTable} {m : Memory} (h : Memory.wf f m) {a : Nat} {bs : List Byte} (hb : inRange a bs.length) :
    Memory.wf f (Memory.writeBytes f m a bs) := by
  induction bs generalizing m a with
  | nil => exact h
  | cons b bs ih =>
    simp only [inRange, List.length_cons] at hb ih
    refine ih (Memory.wf_write h (by omega) b) (by omega)

/-! ### The checked transfers -/

/-- The bounds check in numbers (20_memory.md R57). -/
theorem inRange_iff {a n : Nat} : inRange a n ↔ n = 0 ∨ a + n ≤ 4096 := Iff.rfl

/-- What a checked read answers (20_memory.md R57). -/
theorem State.load_eq_some {s : State} {a n : Nat} {bs : List Byte} :
    s.load a n = some bs ↔ inRange a n ∧ bs = Memory.readBytes s.cfg.font s.mem a n := by
  unfold State.load; split <;> simp_all [eq_comm]

theorem State.load_of_inRange (s : State) {a n : Nat} (h : inRange a n) :
    s.load a n = some (Memory.readBytes s.cfg.font s.mem a n) := State.load_eq_some.2 ⟨h, rfl⟩

theorem State.load_eq_none {s : State} {a n : Nat} : s.load a n = none ↔ ¬inRange a n := by
  unfold State.load; split <;> simp_all

/-- What a checked store answers (20_memory.md R57): the bytes written, everything else kept. -/
theorem State.store_eq_some {s t : State} {a : Nat} {bs : List Byte} :
    s.store a bs = some t ↔ inRange a bs.length ∧ t = { s with mem := Memory.writeBytes s.cfg.font s.mem a bs } := by
  unfold State.store; split <;> simp_all [eq_comm]

theorem State.store_of_inRange (s : State) {a : Nat} {bs : List Byte} (h : inRange a bs.length) :
    s.store a bs = some { s with mem := Memory.writeBytes s.cfg.font s.mem a bs } := State.store_eq_some.2 ⟨h, rfl⟩

theorem State.store_eq_none {s : State} {a : Nat} {bs : List Byte} : s.store a bs = none ↔ ¬inRange a bs.length := by
  unfold State.store; split <;> simp_all

/-- The word a running core fetches (20_memory.md R55, R57). -/
theorem State.fetch_eq_some {s : State} {w : Word} :
    s.fetch = some w ↔ s.pc.toNat ≤ 4094 ∧ w = wordOfBytes (s.readByte s.pc.toNat) (s.readByte (s.pc.toNat + 1)) := by
  unfold State.fetch inRange Config.memSize
  split
  · simp only [Option.some.injEq]; constructor
    · rintro rfl; exact ⟨by omega, rfl⟩
    · exact fun h => h.2.symm
  · simp only [reduceCtorEq, false_iff]; omega

theorem State.fetch_eq_none {s : State} : s.fetch = none ↔ 4094 < s.pc.toNat := by
  unfold State.fetch inRange Config.memSize
  split
  · simp; omega
  · simp; omega

@[simp] theorem regsThrough_length (s : State) (x : Nibble) : (regsThrough s x).length = x.toNat + 1 := by
  have := x.isLt
  simp [regsThrough]; omega

theorem regsThrough_getD (s : State) (x k : Nibble) (h : k.toNat ≤ x.toNat) :
    (regsThrough s x).getD k.toNat 0 = s.readV k := by
  have := k.isLt
  have hk : k.toNat < s.v.toList.length := by simpa using k.isLt
  rw [regsThrough, List.getD_eq_getElem?_getD, List.getElem?_take_of_lt (by omega), List.getElem?_eq_getElem hk]
  simp [State.readV]

end Sys2Proof.Machine
end

