-- ==== Sys2Proof/Laws/Exec.lean ====
section
/-! SUPPORT. Said once: what an instruction can answer, and what a step can do. -/

namespace Sys2Proof.Machine

/-- An instruction that completes leaves `FAULT` as it was. -/
def KeepsLatch (s t : State) : Prop := t.fault = s.fault

/-- What a memory transfer that stores can answer (20_memory.md R57). -/
theorem store_cases (s : State) (a : Nat) (bs : List Byte) :
    (¬inRange a bs.length ∧ s.store a bs = none) ∨
    (inRange a bs.length ∧ s.store a bs = some { s with mem := Memory.writeBytes s.cfg.font s.mem a bs }) := by
  by_cases h : inRange a bs.length
  · exact .inr ⟨h, State.store_of_inRange s h⟩
  · exact .inl ⟨h, State.store_eq_none.2 h⟩

/-- What a memory transfer that loads can answer (20_memory.md R57). -/
theorem load_cases (s : State) (a n : Nat) :
    (¬inRange a n ∧ s.load a n = none) ∨ (inRange a n ∧ s.load a n = some (Memory.readBytes s.cfg.font s.mem a n)) := by
  by_cases h : inRange a n
  · exact .inr ⟨h, State.load_of_inRange s h⟩
  · exact .inl ⟨h, State.load_eq_none.2 h⟩

/-- What a pop can answer (10_state.md R27). -/
theorem pop_cases (s : State) :
    (s.sp.val = 0 ∧ s.pop = none) ∨
    ∃ j : Fin 16, s.sp.val = j.val + 1 ∧ s.pop = some (s.stack[j], { s with sp := j.castSucc }) := by
  by_cases h : s.sp.val = 0
  · exact .inl ⟨h, State.pop_eq_none.2 h⟩
  · have hlt := s.sp.isLt
    refine .inr ⟨⟨s.sp.val - 1, by omega⟩, ?_, State.pop_of_succ _ ?_⟩ <;> (show s.sp.val = s.sp.val - 1 + 1; omega)

/-- What a push can answer (10_state.md R27). -/
theorem push_cases (s : State) (a : Word) :
    (s.sp.val = 16 ∧ s.push a = none) ∨
    ∃ h : s.sp.val < 16, s.push a =
      some { s with stack := s.stack.set s.sp.val a h, sp := ⟨s.sp.val + 1, Nat.succ_lt_succ h⟩ } := by
  by_cases h : s.sp.val = 16
  · exact .inl ⟨h, State.push_eq_none.2 h⟩
  · have hlt := s.sp.isLt
    exact .inr ⟨by omega, State.push_of_lt a (by omega)⟩

/-- An instruction answers a next state: either it completed and left the latch alone, or it raised a fault and changed nothing else. -/
theorem exec_cases (i : Instr) (s : State) :
    (∃ t, exec i s = .next t ∧ KeepsLatch s t) ∨
    (∃ c, c ≠ FaultCause.none ∧ exec i s = .next (s.takeFault c (s.pc - 2) s.ir)) := by
  cases i with
  | ret =>
    rcases pop_cases s with ⟨_, h⟩ | ⟨j, _, h⟩
    · exact .inr ⟨.stackUnderflow, by decide, by simp only [exec, execRet, h]; rfl⟩
    · exact .inl ⟨_, by simp only [exec, execRet, h]; rfl, by simp [KeepsLatch]⟩
  | call nnn =>
    rcases push_cases s s.pc with ⟨_, h⟩ | ⟨_, h⟩
    · exact .inr ⟨.stackOverflow, by decide, by simp only [exec, execCall, h]; rfl⟩
    · exact .inl ⟨_, by simp only [exec, execCall, h]; rfl, by simp [KeepsLatch]⟩
  | drw x y n =>
    rcases load_cases s s.i.toNat n.toNat with ⟨_, h⟩ | ⟨_, h⟩
    · exact .inr ⟨.outOfRangeAccess, by decide, by simp only [exec, execDrw, h]; rfl⟩
    · exact .inl ⟨_, by simp only [exec, execDrw, h]; rfl, by simp [KeepsLatch]⟩
  | ldB x =>
    rcases store_cases s s.i.toNat (bcdDigits (s.readV x)) with ⟨_, h⟩ | ⟨_, h⟩
    · exact .inr ⟨.outOfRangeAccess, by decide, by simp only [exec, execLdB, h]; rfl⟩
    · exact .inl ⟨_, by simp only [exec, execLdB, h]; rfl, by simp [KeepsLatch]⟩
  | storeRegs x =>
    rcases store_cases s s.i.toNat (regsThrough s x) with ⟨_, h⟩ | ⟨_, h⟩
    · exact .inr ⟨.outOfRangeAccess, by decide, by simp only [exec, execStoreRegs, h]; rfl⟩
    · exact .inl ⟨_, by simp only [exec, execStoreRegs, h]; rfl, by simp [KeepsLatch]⟩
  | loadRegs x =>
    rcases load_cases s s.i.toNat (x.toNat + 1) with ⟨_, h⟩ | ⟨_, h⟩
    · exact .inr ⟨.outOfRangeAccess, by decide, by simp only [exec, execLoadRegs, h]; rfl⟩
    · exact .inl ⟨_, by simp only [exec, execLoadRegs, h]; rfl, by simp [KeepsLatch]⟩
  | skp x =>
    by_cases h : 15 < (s.readV x).toNat
    · exact .inr ⟨.keyIndexOutOfRange, by decide, by simp only [exec, execSkp, skipOnKey, if_pos h]; rfl⟩
    · exact .inl ⟨_, by simp only [exec, execSkp, skipOnKey, if_neg h]; rfl, by simp [KeepsLatch]⟩
  | sknp x =>
    by_cases h : 15 < (s.readV x).toNat
    · exact .inr ⟨.keyIndexOutOfRange, by decide, by simp only [exec, execSknp, skipOnKey, if_pos h]; rfl⟩
    · exact .inl ⟨_, by simp only [exec, execSknp, skipOnKey, if_neg h]; rfl, by simp [KeepsLatch]⟩
  | ldVxK x =>
    refine .inl ⟨_, rfl, ?_⟩
    cases h : leastKey s.keys <;> rfl
  | cls => exact .inl ⟨_, rfl, rfl⟩
  | jp nnn => exact .inl ⟨_, rfl, rfl⟩
  | seImm x nn => exact .inl ⟨_, rfl, rfl⟩
  | sneImm x nn => exact .inl ⟨_, rfl, rfl⟩
  | seReg x y => exact .inl ⟨_, rfl, rfl⟩
  | sneReg x y => exact .inl ⟨_, rfl, rfl⟩
  | ldImm x nn => exact .inl ⟨_, rfl, rfl⟩
  | addImm x nn => exact .inl ⟨_, rfl, rfl⟩
  | ldReg x y => exact .inl ⟨_, rfl, rfl⟩
  | orReg x y => exact .inl ⟨_, rfl, rfl⟩
  | andReg x y => exact .inl ⟨_, rfl, rfl⟩
  | xorReg x y => exact .inl ⟨_, rfl, rfl⟩
  | addReg x y => exact .inl ⟨_, rfl, rfl⟩
  | subReg x y => exact .inl ⟨_, rfl, rfl⟩
  | shr x y => exact .inl ⟨_, rfl, rfl⟩
  | subnReg x y => exact .inl ⟨_, rfl, rfl⟩
  | shl x y => exact .inl ⟨_, rfl, rfl⟩
  | ldI nnn => exact .inl ⟨_, rfl, rfl⟩
  | jpV0 nnn => exact .inl ⟨_, rfl, rfl⟩
  | rnd x nn => exact .inl ⟨_, rfl, rfl⟩
  | ldVxDt x => exact .inl ⟨_, rfl, rfl⟩
  | ldDtVx x => exact .inl ⟨_, rfl, rfl⟩
  | ldStVx x => exact .inl ⟨_, rfl, rfl⟩
  | addI x => exact .inl ⟨_, rfl, rfl⟩
  | ldF x => exact .inl ⟨_, rfl, rfl⟩

/-- A stopped core does not step (60_exceptions.md R217). -/
theorem step_of_stopped {s : State} (h : s.fault.valid = true) : step s = .fault (.stopped s.fault.cause) := by
  simp [step, cycleRequested, h]

/-- A running core does one cycle (60_exceptions.md R211). -/
theorem step_of_running {s : State} (h : s.fault.valid = false) : step s = cycle s := by
  simp [step, cycleRequested, h]

/-- Everything a step that answers a next state can have done (60_exceptions.md R211): a fetch fault, an illegal word, or one instruction. -/
theorem step_cases {s u : State} (h : step s = .next u) :
    s.fault.valid = false ∧
    ((s.fetch = none ∧ u = s.nextInput.takeFault .outOfRangeAccess s.pc 0) ∨
     (∃ w e, s.fetch = some w ∧ decode w = .error e ∧ u = s.nextInput.takeFault .illegalInstruction s.pc w) ∨
     (∃ w i t, s.fetch = some w ∧ decode w = .ok i ∧ exec i (s.fetched w) = .next t ∧ u = endOfCycle s t)) := by
  cases hv : s.fault.valid with
  | true => rw [step_of_stopped hv] at h; cases h
  | false =>
    refine ⟨rfl, ?_⟩
    rw [step_of_running hv, cycle] at h
    cases hf : s.fetch with
    | none => rw [hf] at h; cases h; exact .inl ⟨rfl, rfl⟩
    | some w =>
      rw [hf] at h
      refine .inr ?_
      cases hd : decode w with
      | error e => simp only [hd] at h; cases h; exact .inl ⟨w, e, rfl, hd, rfl⟩
      | ok i =>
        simp only [hd] at h
        rcases exec_cases i (s.fetched w) with ⟨t, ht, _⟩ | ⟨c, _, ht⟩ <;>
          (simp only [ht] at h; cases h; exact .inr ⟨w, i, _, rfl, hd, ht, rfl⟩)

end Sys2Proof.Machine
end

