-- ==== Sys2Proof/Laws/PerInstr.lean ====
section
/-! SUPPORT. The family `OpcodeBits`, one lemma per instruction: its encoding has the fixed bits of its own row of the opcode map
(30_encoding.md R85). The encoder and the map are written separately from that table; each lemma holds for every operand. -/

namespace Sys2Proof.Laws.OpcodeBits

/-- Some row of the opcode map carries the instruction's mnemonic, and the instruction's word has that row's fixed bits. -/
def Statement (i : Instr) : Prop := ∃ r ∈ opcodeMap, r.mnemonic = i.mnemonic ∧ encode i &&& r.mask = r.value

/-! What each mask of the map keeps of a word of its format. -/

theorem nibble_kept (o : Nibble) : o &&& 0xF#4 = o := by revert o; decide

theorem byte_kept (b : Byte) : b &&& 0xFF#8 = b := by revert b; decide

theorem op_of_addr (o : Nibble) (nnn : Addr12) : (o ++ nnn : Word) &&& 0xF000 = o ++ 0x000#12 := by
  rw [show (0xF000 : Word) = 0xF#4 ++ 0x000#12 from rfl, BitVec.and_append, nibble_kept, BitVec.and_zero]

theorem op_of_imm (o x : Nibble) (nn : Byte) : (o ++ x ++ nn : Word) &&& 0xF000 = o ++ 0x0#4 ++ 0x00#8 := by
  rw [show (0xF000 : Word) = 0xF#4 ++ 0x0#4 ++ 0x00#8 from rfl, BitVec.and_append, BitVec.and_append, nibble_kept, BitVec.and_zero,
    BitVec.and_zero]

theorem op_of_regs (o x y n : Nibble) : (o ++ x ++ y ++ n : Word) &&& 0xF000 = o ++ 0x0#4 ++ 0x0#4 ++ 0x0#4 := by
  rw [show (0xF000 : Word) = 0xF#4 ++ 0x0#4 ++ 0x0#4 ++ 0x0#4 from rfl, BitVec.and_append, BitVec.and_append, BitVec.and_append,
    nibble_kept, BitVec.and_zero, BitVec.and_zero, BitVec.and_zero]

theorem op_nn_of_imm (o x : Nibble) (nn : Byte) : (o ++ x ++ nn : Word) &&& 0xF0FF = o ++ 0x0#4 ++ nn := by
  rw [show (0xF0FF : Word) = 0xF#4 ++ 0x0#4 ++ 0xFF#8 from rfl, BitVec.and_append, BitVec.and_append, nibble_kept, byte_kept,
    BitVec.and_zero]

theorem op_n_of_regs (o x y n : Nibble) : (o ++ x ++ y ++ n : Word) &&& 0xF00F = o ++ 0x0#4 ++ 0x0#4 ++ n := by
  rw [show (0xF00F : Word) = 0xF#4 ++ 0x0#4 ++ 0x0#4 ++ 0xF#4 from rfl, BitVec.and_append, BitVec.and_append, BitVec.and_append,
    nibble_kept, nibble_kept, BitVec.and_zero, BitVec.and_zero]

/-! One lemma per instruction. -/

theorem cls : Statement .cls :=
  ⟨⟨"CLS", 0xFFFF, 0x00E0⟩, by decide, rfl, rfl⟩

theorem ret : Statement .ret :=
  ⟨⟨"RET", 0xFFFF, 0x00EE⟩, by decide, rfl, rfl⟩

theorem jp (nnn : Addr12) : Statement (.jp nnn) :=
  ⟨⟨"JP_NNN", 0xF000, 0x1000⟩, by decide, rfl, op_of_addr _ _⟩

theorem call (nnn : Addr12) : Statement (.call nnn) :=
  ⟨⟨"CALL_NNN", 0xF000, 0x2000⟩, by decide, rfl, op_of_addr _ _⟩

theorem seImm (x : Nibble) (nn : Byte) : Statement (.seImm x nn) :=
  ⟨⟨"SE_Vx__NN", 0xF000, 0x3000⟩, by decide, rfl, op_of_imm _ _ _⟩

theorem sneImm (x : Nibble) (nn : Byte) : Statement (.sneImm x nn) :=
  ⟨⟨"SNE_Vx__NN", 0xF000, 0x4000⟩, by decide, rfl, op_of_imm _ _ _⟩

theorem seReg (x y : Nibble) : Statement (.seReg x y) :=
  ⟨⟨"SE_Vx__Vy", 0xF00F, 0x5000⟩, by decide, rfl, op_n_of_regs _ _ _ _⟩

theorem sneReg (x y : Nibble) : Statement (.sneReg x y) :=
  ⟨⟨"SNE_Vx__Vy", 0xF00F, 0x9000⟩, by decide, rfl, op_n_of_regs _ _ _ _⟩

theorem ldImm (x : Nibble) (nn : Byte) : Statement (.ldImm x nn) :=
  ⟨⟨"LD_Vx__NN", 0xF000, 0x6000⟩, by decide, rfl, op_of_imm _ _ _⟩

theorem addImm (x : Nibble) (nn : Byte) : Statement (.addImm x nn) :=
  ⟨⟨"ADD_Vx__NN", 0xF000, 0x7000⟩, by decide, rfl, op_of_imm _ _ _⟩

theorem ldReg (x y : Nibble) : Statement (.ldReg x y) :=
  ⟨⟨"LD_Vx__Vy", 0xF00F, 0x8000⟩, by decide, rfl, op_n_of_regs _ _ _ _⟩

theorem orReg (x y : Nibble) : Statement (.orReg x y) :=
  ⟨⟨"OR_Vx__Vy", 0xF00F, 0x8001⟩, by decide, rfl, op_n_of_regs _ _ _ _⟩

theorem andReg (x y : Nibble) : Statement (.andReg x y) :=
  ⟨⟨"AND_Vx__Vy", 0xF00F, 0x8002⟩, by decide, rfl, op_n_of_regs _ _ _ _⟩

theorem xorReg (x y : Nibble) : Statement (.xorReg x y) :=
  ⟨⟨"XOR_Vx__Vy", 0xF00F, 0x8003⟩, by decide, rfl, op_n_of_regs _ _ _ _⟩

theorem addReg (x y : Nibble) : Statement (.addReg x y) :=
  ⟨⟨"ADD_Vx__Vy", 0xF00F, 0x8004⟩, by decide, rfl, op_n_of_regs _ _ _ _⟩

theorem subReg (x y : Nibble) : Statement (.subReg x y) :=
  ⟨⟨"SUB_Vx__Vy", 0xF00F, 0x8005⟩, by decide, rfl, op_n_of_regs _ _ _ _⟩

theorem shr (x y : Nibble) : Statement (.shr x y) :=
  ⟨⟨"SHR_Vx____Vy", 0xF00F, 0x8006⟩, by decide, rfl, op_n_of_regs _ _ _ _⟩

theorem subnReg (x y : Nibble) : Statement (.subnReg x y) :=
  ⟨⟨"SUBN_Vx__Vy", 0xF00F, 0x8007⟩, by decide, rfl, op_n_of_regs _ _ _ _⟩

theorem shl (x y : Nibble) : Statement (.shl x y) :=
  ⟨⟨"SHL_Vx____Vy", 0xF00F, 0x800E⟩, by decide, rfl, op_n_of_regs _ _ _ _⟩

theorem ldI (nnn : Addr12) : Statement (.ldI nnn) :=
  ⟨⟨"LD_I__NNN", 0xF000, 0xA000⟩, by decide, rfl, op_of_addr _ _⟩

theorem jpV0 (nnn : Addr12) : Statement (.jpV0 nnn) :=
  ⟨⟨"JP_V0__NNN", 0xF000, 0xB000⟩, by decide, rfl, op_of_addr _ _⟩

theorem rnd (x : Nibble) (nn : Byte) : Statement (.rnd x nn) :=
  ⟨⟨"RND_Vx__NN", 0xF000, 0xC000⟩, by decide, rfl, op_of_imm _ _ _⟩

theorem drw (x y n : Nibble) : Statement (.drw x y n) :=
  ⟨⟨"DRW_Vx__Vy__N", 0xF000, 0xD000⟩, by decide, rfl, op_of_regs _ _ _ _⟩

theorem skp (x : Nibble) : Statement (.skp x) :=
  ⟨⟨"SKP_Vx", 0xF0FF, 0xE09E⟩, by decide, rfl, op_nn_of_imm _ _ _⟩

theorem sknp (x : Nibble) : Statement (.sknp x) :=
  ⟨⟨"SKNP_Vx", 0xF0FF, 0xE0A1⟩, by decide, rfl, op_nn_of_imm _ _ _⟩

theorem ldVxDt (x : Nibble) : Statement (.ldVxDt x) :=
  ⟨⟨"LD_Vx__DT", 0xF0FF, 0xF007⟩, by decide, rfl, op_nn_of_imm _ _ _⟩

theorem ldVxK (x : Nibble) : Statement (.ldVxK x) :=
  ⟨⟨"LD_Vx__K", 0xF0FF, 0xF00A⟩, by decide, rfl, op_nn_of_imm _ _ _⟩

theorem ldDtVx (x : Nibble) : Statement (.ldDtVx x) :=
  ⟨⟨"LD_DT__Vx", 0xF0FF, 0xF015⟩, by decide, rfl, op_nn_of_imm _ _ _⟩

theorem ldStVx (x : Nibble) : Statement (.ldStVx x) :=
  ⟨⟨"LD_ST__Vx", 0xF0FF, 0xF018⟩, by decide, rfl, op_nn_of_imm _ _ _⟩

theorem addI (x : Nibble) : Statement (.addI x) :=
  ⟨⟨"ADD_I__Vx", 0xF0FF, 0xF01E⟩, by decide, rfl, op_nn_of_imm _ _ _⟩

theorem ldF (x : Nibble) : Statement (.ldF x) :=
  ⟨⟨"LD_F__Vx", 0xF0FF, 0xF029⟩, by decide, rfl, op_nn_of_imm _ _ _⟩

theorem ldB (x : Nibble) : Statement (.ldB x) :=
  ⟨⟨"LD_B__Vx", 0xF0FF, 0xF033⟩, by decide, rfl, op_nn_of_imm _ _ _⟩

theorem storeRegs (x : Nibble) : Statement (.storeRegs x) :=
  ⟨⟨"LD__I___Vx", 0xF0FF, 0xF055⟩, by decide, rfl, op_nn_of_imm _ _ _⟩

theorem loadRegs (x : Nibble) : Statement (.loadRegs x) :=
  ⟨⟨"LD_Vx___I", 0xF0FF, 0xF065⟩, by decide, rfl, op_nn_of_imm _ _ _⟩

end Sys2Proof.Laws.OpcodeBits
end

