-- ==== Sys2Proof/Tests/Slice0.lean ====
section
/-! SUPPORT. Our own tests. Every expected result is a vector of spec/95_test_vectors.md (named in the comment) or is read off the pattern of
30_encoding.md R85. The witnesses show states and operands that meet the hypotheses of the obligations. -/

namespace Sys2Proof.Tests

open Sys2Proof.Machine

/-! ### Words written out from the opcode map (30_encoding.md R85), one per instruction -/

theorem test_decode_cls : decode 0x00E0 = .ok .cls := by decide

theorem test_decode_ret : decode 0x00EE = .ok .ret := by decide

theorem test_decode_jp : decode 0x1234 = .ok (.jp 0x234) := by decide

theorem test_decode_call : decode 0x2300 = .ok (.call 0x300) := by decide

theorem test_decode_seImm : decode 0x332A = .ok (.seImm 0x3 0x2A) := by decide

theorem test_decode_sneImm : decode 0x432A = .ok (.sneImm 0x3 0x2A) := by decide

theorem test_decode_seReg : decode 0x5120 = .ok (.seReg 0x1 0x2) := by decide

theorem test_decode_sneReg : decode 0x9AF0 = .ok (.sneReg 0xA 0xF) := by decide

theorem test_decode_ldImm : decode 0x6A02 = .ok (.ldImm 0xA 0x02) := by decide

theorem test_decode_addImm : decode 0x7F01 = .ok (.addImm 0xF 0x01) := by decide

theorem test_decode_ldReg : decode 0x8010 = .ok (.ldReg 0x0 0x1) := by decide

theorem test_decode_orReg : decode 0x8AB1 = .ok (.orReg 0xA 0xB) := by decide

theorem test_decode_andReg : decode 0x8AB2 = .ok (.andReg 0xA 0xB) := by decide

theorem test_decode_xorReg : decode 0x8AB3 = .ok (.xorReg 0xA 0xB) := by decide

theorem test_decode_addReg : decode 0x8AB4 = .ok (.addReg 0xA 0xB) := by decide

theorem test_decode_subReg : decode 0x8AB5 = .ok (.subReg 0xA 0xB) := by decide

theorem test_decode_shr : decode 0x8236 = .ok (.shr 0x2 0x3) := by decide

theorem test_decode_subnReg : decode 0x8AB7 = .ok (.subnReg 0xA 0xB) := by decide

theorem test_decode_shl : decode 0x823E = .ok (.shl 0x2 0x3) := by decide

theorem test_decode_ldI : decode 0xA2F0 = .ok (.ldI 0x2F0) := by decide

theorem test_decode_jpV0 : decode 0xBFFF = .ok (.jpV0 0xFFF) := by decide

theorem test_decode_rnd : decode 0xC30F = .ok (.rnd 0x3 0x0F) := by decide

theorem test_decode_drw : decode 0xD235 = .ok (.drw 0x2 0x3 0x5) := by decide

theorem test_decode_skp : decode 0xE19E = .ok (.skp 0x1) := by decide

theorem test_decode_sknp : decode 0xE1A1 = .ok (.sknp 0x1) := by decide

theorem test_decode_ldVxDt : decode 0xF307 = .ok (.ldVxDt 0x3) := by decide

theorem test_decode_ldVxK : decode 0xF50A = .ok (.ldVxK 0x5) := by decide

theorem test_decode_ldDtVx : decode 0xF215 = .ok (.ldDtVx 0x2) := by decide

theorem test_decode_ldStVx : decode 0xF218 = .ok (.ldStVx 0x2) := by decide

theorem test_decode_addI : decode 0xF21E = .ok (.addI 0x2) := by decide

theorem test_decode_ldF : decode 0xF429 = .ok (.ldF 0x4) := by decide

theorem test_decode_ldB : decode 0xF533 = .ok (.ldB 0x5) := by decide

theorem test_decode_storeRegs : decode 0xF355 = .ok (.storeRegs 0x3) := by decide

theorem test_decode_loadRegs : decode 0xFF65 = .ok (.loadRegs 0xF) := by decide

/-! ### Words the check refuses, one per class of 30_encoding.md R87, and the names the decoder gives them -/

theorem test_refused_op0 : wordWellFormed 0x01E0 = false ∧ decode 0x01E0 = .error .illegalOp0 := by decide

theorem test_refused_op5 : wordWellFormed 0x5121 = false ∧ decode 0x5121 = .error .illegalOp5 := by decide

theorem test_refused_op8 : wordWellFormed 0x8008 = false ∧ decode 0x8008 = .error .illegalOp8 := by decide

theorem test_refused_op9 : wordWellFormed 0x9001 = false ∧ decode 0x9001 = .error .illegalOp9 := by decide

theorem test_refused_opE : wordWellFormed 0xE09F = false ∧ decode 0xE09F = .error .illegalOpE := by decide

theorem test_refused_opF : wordWellFormed 0xF066 = false ∧ decode 0xF066 = .error .illegalOpF := by decide

theorem test_accepted : wordWellFormed 0x00E0 = true ∧ wordWellFormed 0x5120 = true ∧ wordWellFormed 0xFF65 = true := by decide

/-- One byte is no instruction (R80), and the byte at the lower address is the more significant (20_memory.md R55). -/
theorem test_bytes : decodeBytes [0x6A] = .error .truncated ∧ decodeBytes [0x6A, 0x02, 0x99] = .ok (.ldImm 0xA 0x02, [0x99]) := by decide

/-! ### One step: the start states of spec/95_test_vectors.md -/

/-- The reset state with the inputs of the cycle given and general registers set. -/
def start (keys : Word) (rnd : Byte) (regs : List (Nibble × Byte)) : State :=
  regs.foldl (fun s r => s.writeV r.1 r.2) { State.reset with inputs := [⟨keys, rnd⟩] }

/-- One cycle with the word stored at `PC` answers a next state that passes the check. -/
def ran (s : State) (w : Nat) (check : State → Bool) : Bool :=
  match step (s.withFetchWord 16 w) with
  | .next t => check t
  | .fault _ => false
  | .refused _ => false

/-- The registers listed hold the values listed, and no fault is latched. -/
def holds (t : State) (regs : List (Nibble × Byte)) : Bool := !t.fault.valid && regs.all fun r => t.readV r.1 == r.2

/-- The latch holds the fault listed. -/
def faulted (t : State) (c : FaultCause) (pc instr : Word) : Bool := t.fault == ⟨true, c, pc, instr⟩

/-- T-DSP-1. -/
theorem test_cls_keeps_flag :
    ran { start 0 0 [(0xF, 1)] with fb := Vector.replicate 32 0x21 } 0x00E0 (fun t => t.fb == Vector.replicate 32 0 && holds t [(0xF, 1)]) = true := by decide

/-- T-CF-3, the last slot. -/
theorem test_ret_full_stack :
    ran { start 0 0 [] with pc := 0x300, sp := 16, stack := (Vector.replicate 16 0).set 15 0x220 } 0x00EE (fun t => t.pc == 0x220 && t.sp == 15) = true := by decide

/-- T-CF-2. -/
theorem test_ret_empty_stack :
    ran { start 0 0 [] with pc := 0x300 } 0x00EE (fun t => faulted t .stackUnderflow 0x300 0x00EE && t.pc == 0x300 && t.ir == 0) = true := by decide

/-- T-CF-4. -/
theorem test_jp :
    ran (start 0 0 []) 0x1234 (fun t => t.pc == 0x234) = true := by decide

/-- T-CF-8. -/
theorem test_call_last_slot :
    ran { start 0 0 [] with pc := 0x202, sp := 15 } 0x2300 (fun t => t.stack[15] == 0x204 && t.sp == 16 && t.pc == 0x300) = true := by decide

/-- T-CF-9. -/
theorem test_call_full_stack :
    ran { start 0 0 [] with pc := 0x202, sp := 16 } 0x2300 (fun t => faulted t .stackOverflow 0x202 0x2300 && t.pc == 0x202 && t.sp == 16) = true := by decide

/-- T-CF-10. -/
theorem test_seImm_skips :
    ran (start 0 0 [(3, 0x2A)]) 0x332A (fun t => t.pc == 0x204) = true := by decide

/-- T-CF-22. -/
theorem test_seImm_over_last_word :
    ran { start 0 0 [] with pc := 0xFFC } 0x3000 (fun t => t.pc == 0x1000) = true := by decide

/-- T-CF-12. -/
theorem test_sneImm_keeps :
    ran (start 0 0 [(3, 0x2A)]) 0x432A (fun t => t.pc == 0x202) = true := by decide

/-- T-CF-14. -/
theorem test_seReg_skips :
    ran (start 0 0 [(1, 7), (2, 7)]) 0x5120 (fun t => t.pc == 0x204) = true := by decide

/-- T-CF-17. -/
theorem test_sneReg_skips :
    ran (start 0 0 [(1, 7), (2, 8)]) 0x9120 (fun t => t.pc == 0x204) = true := by decide

/-- T-CF-20. -/
theorem test_jpV0_past_memory :
    ran (start 0 0 [(0, 0xFF)]) 0xBFFF (fun t => t.pc == 0x10FE) = true := by decide

/-- T-ALU-2. -/
theorem test_ldImm :
    ran (start 0 0 []) 0x6FAB (holds · [(0xF, 0xAB)]) = true := by decide

/-- T-ALU-3. -/
theorem test_addImm_wraps :
    ran (start 0 0 [(0xA, 0xFF), (0xF, 7)]) 0x7A02 (holds · [(0xA, 1), (0xF, 7)]) = true := by decide

/-- T-ALU-6. -/
theorem test_ldReg :
    ran (start 0 0 [(1, 0x3C)]) 0x8010 (holds · [(0, 0x3C), (1, 0x3C)]) = true := by decide

/-- T-ALU-7. -/
theorem test_orReg :
    ran (start 0 0 [(0, 0xF0), (1, 0x0F), (0xF, 9)]) 0x8011 (holds · [(0, 0xFF), (0xF, 9)]) = true := by decide

/-- T-ALU-8. -/
theorem test_andReg :
    ran (start 0 0 [(0, 0xF3), (1, 0x3F), (0xF, 9)]) 0x8012 (holds · [(0, 0x33), (0xF, 9)]) = true := by decide

/-- T-ALU-9. -/
theorem test_xorReg :
    ran (start 0 0 [(0, 0xF3), (1, 0x3F), (0xF, 9)]) 0x8013 (holds · [(0, 0xCC), (0xF, 9)]) = true := by decide

/-- T-ALU-17. -/
theorem test_addReg_flag_destination :
    ran (start 0 0 [(0xF, 0xF0), (1, 0x20)]) 0x8F14 (holds · [(0xF, 1), (1, 0x20)]) = true := by decide

/-- T-ALU-19. -/
theorem test_addReg_flag_source :
    ran (start 0 0 [(1, 0xFE), (0xF, 5)]) 0x81F4 (holds · [(1, 3), (0xF, 1)]) = true := by decide

/-- T-ALU-23. -/
theorem test_subReg_equal :
    ran (start 0 0 [(0, 7), (1, 7)]) 0x8015 (holds · [(0, 0), (0xF, 0)]) = true := by decide

/-- T-ALU-21. -/
theorem test_subReg_borrow :
    ran (start 0 0 [(0, 5), (1, 7)]) 0x8015 (holds · [(0, 0xFE), (0xF, 0)]) = true := by decide

/-- T-ALU-41. -/
theorem test_shr_ignores_y :
    ran (start 0 0 [(2, 5), (3, 0xF0)]) 0x8236 (holds · [(2, 2), (3, 0xF0), (0xF, 1)]) = true := by decide

/-- T-ALU-43. -/
theorem test_shr_uses_y :
    ran { start 0 0 [(2, 4), (3, 0x0B)] with cfg := ⟨true, false, defaultFont⟩ } 0x8236 (holds · [(2, 5), (3, 0x0B), (0xF, 1)]) = true := by decide

/-- T-ALU-31. -/
theorem test_subnReg :
    ran (start 0 0 [(0, 5), (1, 7)]) 0x8017 (holds · [(0, 2), (1, 7), (0xF, 1)]) = true := by decide

/-- T-ALU-35. -/
theorem test_subnReg_flag_destination :
    ran (start 0 0 [(0xF, 4), (1, 9)]) 0x8F17 (holds · [(0xF, 1)]) = true := by decide

/-- T-ALU-46. -/
theorem test_shl :
    ran (start 0 0 [(2, 0x81)]) 0x820E (holds · [(2, 2), (0xF, 1)]) = true := by decide

/-- T-ALU-51. -/
theorem test_shl_uses_y :
    ran { start 0 0 [(2, 1), (3, 0xC1)] with cfg := ⟨true, false, defaultFont⟩ } 0x823E (holds · [(2, 0x82), (3, 0xC1), (0xF, 1)]) = true := by decide

/-- T-ALU-54. -/
theorem test_rnd_masks :
    ran (start 0 0xA7 []) 0xC30F (holds · [(3, 7)]) = true := by decide

/-- T-MEM-1. -/
theorem test_ldI :
    ran (start 0 0 []) 0xA2F0 (fun t => t.i == 0x2F0) = true := by decide

/-- T-MEM-5. -/
theorem test_addI_wraps :
    ran { start 0 0 [(2, 1)] with i := 0xFFFF } 0xF21E (fun t => t.i == 0) = true := by decide

/-- T-MEM-11. -/
theorem test_ldF_no_mask :
    ran (start 0 0 [(4, 0xFF)]) 0xF429 (fun t => t.i == 0x54B) = true := by decide

/-- T-MEM-12. -/
theorem test_ldB_digits :
    ran { start 0 0 [(5, 234)] with i := 0x300 } 0xF533 (fun t => Memory.readBytes t.cfg.font t.mem 0x300 3 == [2, 3, 4]) = true := by decide

/-- T-MEM-19. -/
theorem test_ldB_out_of_range :
    ran { start 0 0 [(5, 123)] with i := 0xFFE } 0xF533 (fun t => faulted t .outOfRangeAccess 0x200 0xF533 && t.readByte 0xFFE == 0) = true := by decide

/-- T-MEM-22. -/
theorem test_storeRegs_advances :
    ran { start 0 0 [(0, 0x11), (1, 0x22), (2, 0x33), (3, 0x44)] with i := 0x400, cfg := ⟨false, true, defaultFont⟩ } 0xF255
      (fun t => Memory.readBytes t.cfg.font t.mem 0x400 4 == [0x11, 0x22, 0x33, 0] && t.i == 0x403) = true := by decide

/-- T-MEM-26, of X = 1. -/
theorem test_storeRegs_out_of_range :
    ran { start 0 0 [(0, 0xA0), (1, 0xA1)] with i := 0xFFF } 0xF155 (fun t => faulted t .outOfRangeAccess 0x200 0xF155 && t.readByte 0xFFF == 0) = true := by decide

/-- T-MEM-32. -/
theorem test_loadRegs_font :
    ran { start 0 0 [] with i := 0x50 } 0xFF65
      (fun t => t.v.toList == [0xF0, 0x90, 0x90, 0x90, 0xF0, 0x20, 0x60, 0x20, 0x20, 0x70, 0xF0, 0x10, 0xF0, 0x80, 0xF0, 0xF0]) = true := by decide

/-- T-MEM-33. -/
theorem test_loadRegs_out_of_range :
    ran { start 0 0 [(0, 5), (1, 6)] with i := 0xFFF } 0xF165 (fun t => faulted t .outOfRangeAccess 0x200 0xF165 && t.readV 0 == 5) = true := by decide

/-- T-DSP-4: cells 62, 63 and 0 to 5 of row 0. -/
theorem test_drw_wraps_columns :
    ran { start 0 0 [(0, 62)] with i := 0x300, mem := [(0x300, 0xFF)] } 0xD011
      (fun t => t.fb == (Vector.replicate 32 0).set 0 0xC00000000000003F && holds t [(0xF, 0)]) = true := by decide

/-- T-DSP-20: the origin is the old VF, and the cell that goes off sets VF. -/
theorem test_drw_flag_register_origin :
    ran { start 0 0 [(1, 4), (0xF, 3)] with i := 0x300, mem := [(0x300, 0x80)], fb := (Vector.replicate 32 0).set 3 0x10 } 0xD1F1
      (fun t => t.fb == Vector.replicate 32 0 && holds t [(0xF, 1)]) = true := by decide

/-- T-KEY-3. -/
theorem test_skp_no_key :
    ran (start 0xFFDF 0 [(1, 5)]) 0xE19E (fun t => t.pc == 0x202) = true := by decide

/-- T-KEY-5. -/
theorem test_skp_index :
    ran (start 0xFFFF 0 [(1, 16)]) 0xE19E (faulted · .keyIndexOutOfRange 0x200 0xE19E) = true := by decide

/-- T-KEY-7. -/
theorem test_sknp_skips :
    ran (start 0xFFDF 0 [(1, 5)]) 0xE1A1 (fun t => t.pc == 0x204) = true := by decide

/-- T-KEY-9. -/
theorem test_sknp_index :
    ran (start 0 0 [(1, 0xFF)]) 0xE1A1 (faulted · .keyIndexOutOfRange 0x200 0xE1A1) = true := by decide

/-- T-KEY-10. -/
theorem test_ldVxDt_before_tick :
    ran { start 0 0 [] with dt := 0x10 } 0xF307 (fun t => holds t [(3, 0x10)] && t.dt == 0x0F) = true := by decide

/-- T-KEY-20. -/
theorem test_ldVxK_waits :
    ran { start 0 0 [(5, 0xEE)] with dt := 3, st := 2 } 0xF50A
      (fun t => t.pc == 0x200 && holds t [(5, 0xEE)] && t.dt == 2 && t.st == 1 && t.ir == 0xF50A) = true := by decide

/-- T-KEY-22. -/
theorem test_ldVxK_least :
    ran (start 0x0048 0 [(5, 0xEE)]) 0xF50A (fun t => t.pc == 0x202 && holds t [(5, 3)]) = true := by decide

/-- T-KEY-13. -/
theorem test_ldDtVx_then_tick :
    ran (start 0 0 [(2, 0x3C)]) 0xF215 (fun t => t.dt == 0x3B) = true := by decide

/-- T-KEY-18. -/
theorem test_ldStVx_one :
    ran { start 0 0 [(2, 1)] with dt := 7 } 0xF218 (fun t => t.st == 0 && t.dt == 6) = true := by decide

/-- T-FLT-1. -/
theorem test_illegal_word :
    ran { start 0 0 [(0, 1)] with dt := 5, st := 5 } 0x0000 (fun t => faulted t .illegalInstruction 0x200 0 && t.pc == 0x200 && t.dt == 5 && t.st == 5) = true := by decide

/-- T-FLT-16. -/
theorem test_fetch_out_of_range : step { State.reset with pc := 0xFFF, dt := 4 } =
    .next { State.reset with pc := 0xFFF, dt := 4, fault := ⟨true, .outOfRangeAccess, 0xFFF, 0⟩, drawn := 1 } := rfl

/-- T-FLT-15. -/
theorem test_last_legal_fetch :
    ran { start 0 0 [] with pc := 0xFFE } 0x1FFE (fun t => t.pc == 0xFFE && !t.fault.valid) = true := by decide

/-- R250: `MEM[0x50 + j] <- FONT[j]`, here a font of AA bytes; a store of 77 at 0x50 is gone, and the neighbours are zero. -/
theorem test_reset_copies_configured_font :
    (fun s => (s.readByte 0x50, s.readByte 0x9F, s.readByte 0x4F, s.readByte 0xA0)) (hostApply { State.reset with cfg := ⟨false, false, Vector.replicate 80 0xAA⟩, mem := [(0x50, 0x77)] } .reset) =
      (0xAA, 0xAA, 0, 0) := by decide

/-- R163, R182 (h) under a font whose first byte is 01: digit 0 drawn at (0, 0) turns on cell (7, 0). -/
theorem test_draw_reads_configured_font :
    ran { start 0 0 [] with i := 0x50, cfg := ⟨false, false, (Vector.replicate 80 0).set 0 1⟩ } 0xD011 (fun t => t.fb == (Vector.replicate 32 0).set 0 0x80) = true := by decide

/-! ### Witnesses: states and operands that meet the hypotheses of the obligations, at the boundaries of each clause -/

/-- A running core about to run the word. -/
def ready (w : Nat) : State := (start 0 0 []).withFetchWord 16 w

/-- A stopped core. -/
def stopped : State := { State.reset with fault := ⟨true, .illegalInstruction, 0x200, 0⟩ }

theorem witness_RetPopsReturnAddress : State.reset.sp.val = 0 ∧
    ({ State.reset with sp := 1 } : State).sp.val = (0 : Fin 16).val + 1 ∧
    ({ State.reset with sp := 16 } : State).sp.val = (15 : Fin 16).val + 1 := by decide

theorem witness_CallPushesAndJumps : ({ State.reset with sp := 16 } : State).sp.val = 16 ∧
    State.reset.sp.val = (0 : Fin 16).val ∧ ({ State.reset with sp := 15 } : State).sp.val = (15 : Fin 16).val := by decide

theorem witness_SeImmSkipsWhenEqual : State.reset.readV 3 = 0 ∧ State.reset.readV 3 ≠ 0xFF := by decide

theorem witness_SneImmSkipsWhenDifferent : State.reset.readV 15 ≠ 1 ∧ State.reset.readV 15 = 0 := by decide

theorem witness_SeRegSkipsWhenEqual : (1 : Nibble) ≠ 0 ∧ (15 : Nibble) ≠ 0 ∧ State.reset.readV 1 = State.reset.readV 1 ∧
    (start 0 0 [(1, 7)]).readV 1 ≠ (start 0 0 [(1, 7)]).readV 2 := by decide

theorem witness_SneRegSkipsWhenDifferent : (1 : Nibble) ≠ 0 ∧ (15 : Nibble) ≠ 0 ∧
    (start 0 0 [(0, 7)]).readV 0 ≠ (start 0 0 [(0, 7)]).readV 15 ∧ State.reset.readV 2 = State.reset.readV 2 := by decide

/-- The operand that AddRegSetsCarry, SubRegSetsStrictFlag and SubnRegSetsStrictFlag give a result for. -/
theorem witness_AddRegSetsCarry : (14 : Nibble) ≠ 15 ∧ (0 : Nibble) ≠ 15 := by decide

theorem witness_SubRegSetsStrictFlag : (14 : Nibble) ≠ 15 ∧ (0 : Nibble) ≠ 15 := by decide

theorem witness_SubnRegSetsStrictFlag : (14 : Nibble) ≠ 15 ∧ (0 : Nibble) ≠ 15 := by decide

theorem witness_ShrSetsDroppedBit :
    (5 : Byte) = (if (start 0 0 [(2, 5)]).cfg.shiftUsesVy then (start 0 0 [(2, 5)]).readV 3 else (start 0 0 [(2, 5)]).readV 2) ∧
    (2 : Nibble) ≠ 15 := by decide

theorem witness_ShlSetsDroppedBit :
    (0 : Byte) = (if ({ start 0 0 [(2, 5)] with cfg := ⟨true, false, defaultFont⟩ } : State).cfg.shiftUsesVy then (start 0 0 [(2, 5)]).readV 3
      else (start 0 0 [(2, 5)]).readV 2) ∧ (2 : Nibble) ≠ 15 := by decide

theorem witness_LdBStoresDigits : ({ State.reset with i := 4094 } : State).i.toNat + 2 > 4095 ∧
    ({ State.reset with i := 4093 } : State).i.toNat + 2 ≤ 4095 := by decide

theorem witness_StoreRegsStoresAll : ({ State.reset with i := 4081 } : State).i.toNat + (15 : Nibble).toNat > 4095 ∧
    ({ State.reset with i := 4080 } : State).i.toNat + (15 : Nibble).toNat ≤ 4095 ∧ (15 : Nibble).toNat ≤ (15 : Nibble).toNat ∧
    ({ State.reset with cfg := ⟨false, true, defaultFont⟩ } : State).cfg.indexIncrement = true ∧ State.reset.cfg.indexIncrement = false := by decide

theorem witness_LoadRegsLoadsAll : ({ State.reset with i := 4096 } : State).i.toNat + (0 : Nibble).toNat > 4095 ∧
    ({ State.reset with i := 4095 } : State).i.toNat + (0 : Nibble).toNat ≤ 4095 ∧ (0 : Nibble).toNat ≤ (0 : Nibble).toNat ∧
    (0 : Nibble).toNat < (1 : Nibble).toNat ∧
    ({ State.reset with cfg := ⟨false, true, defaultFont⟩ } : State).cfg.indexIncrement = true ∧ State.reset.cfg.indexIncrement = false := by decide

theorem witness_ClsClearsScreen : (63 : Nat) < 64 ∧ (31 : Nat) < 32 := by decide

theorem witness_DrwTogglesCoveredCells : (0 < (15 : Nibble).toNat ∧ ({ State.reset with i := 4082 } : State).i.toNat + (15 : Nibble).toNat - 1 > 4095) ∧
    ((15 : Nibble).toNat = 0 ∨ ({ State.reset with i := 4081 } : State).i.toNat + (15 : Nibble).toNat - 1 ≤ 4095) ∧
    ((0 : Nibble).toNat = 0 ∨ ({ State.reset with i := 65535 } : State).i.toNat + (0 : Nibble).toNat - 1 ≤ 4095) := by decide

/-- A sprite over a cell that is on, and over cells that are off. -/
theorem witness_DrwTogglesCoveredCells_collision :
    Collides { State.reset with i := 0x50, fb := (Vector.replicate 32 0).set 0 1 } 0 0 1 ∧ ¬Collides { State.reset with i := 0x50 } 0 0 1 := by
  refine ⟨⟨0, 0, by decide, by decide, ⟨0, by decide, 0, by decide, by decide, rfl, rfl⟩, by decide⟩, ?_⟩
  rintro ⟨px, py, _, _, _, hp⟩
  simp [State.reset, FrameBuffer.pixel] at hp

theorem witness_DrwTwiceRestoresScreen : (0 : Nibble) ≠ 15 ∧ (1 : Nibble) ≠ 15 ∧
    ((1 : Nibble).toNat = 0 ∨ ({ State.reset with i := 0x50 } : State).i.toNat + (1 : Nibble).toNat - 1 ≤ 4095) ∧
    ∃ t, exec (.drw 0 1 1) { State.reset with i := 0x50 } = .next t ∧ ∃ u, exec (.drw 0 1 1) t = .next u :=
  ⟨by decide, by decide, by decide, _, rfl, _, rfl⟩

theorem witness_SkpSkipsWhenPressed : ((start 0x8000 0 [(1, 16)]).readV 1).toNat > 15 ∧ ((start 0x8000 0 [(1, 15)]).readV 1).toNat ≤ 15 ∧
    (start 0x8000 0 [(1, 15)]).keys.getLsbD 15 = true ∧ (start 0x8000 0 [(1, 0)]).keys.getLsbD 0 = false := by decide

theorem witness_SknpSkipsWhenReleased : ((start 1 0 [(1, 16)]).readV 1).toNat > 15 ∧ ((start 1 0 [(1, 15)]).readV 1).toNat ≤ 15 ∧
    (start 1 0 [(1, 15)]).keys.getLsbD 15 = false ∧ (start 1 0 [(1, 0)]).keys.getLsbD 0 = true := by decide

theorem witness_LdVxDtReadsTimer : Running (ready 0xF307) ∧ (ready 0xF307).pc.toNat ≤ 4094 ∧
    wordAtPc (ready 0xF307) = 0xF#4 ++ 0x3#4 ++ 0x07#8 ∧ ∃ u, step (ready 0xF307) = .next u := ⟨rfl, by decide, by decide, _, rfl⟩

theorem witness_LdVxKTakesLeastKeyOrWaits : Running (ready 0xF50A) ∧ (ready 0xF50A).pc.toNat ≤ 4094 ∧
    wordAtPc (ready 0xF50A) = 0xF#4 ++ 0x5#4 ++ 0x0A#8 ∧ (ready 0xF50A).keys = 0 ∧ (∃ u, step (ready 0xF50A) = .next u) ∧
    (15 < 16 ∧ (start 0x8000 0 []).keys.getLsbD 15 = true ∧ ∀ j < 15, (start 0x8000 0 []).keys.getLsbD j = false) ∧
    (0 < 16 ∧ (start 1 0 []).keys.getLsbD 0 = true ∧ ∀ j < 0, (start 1 0 []).keys.getLsbD j = false) :=
  ⟨rfl, by decide, by decide, by decide, ⟨_, rfl⟩, by decide, by decide⟩

theorem witness_LdDtVxSetsTimer : Running (ready 0xF215) ∧ (ready 0xF215).pc.toNat ≤ 4094 ∧
    wordAtPc (ready 0xF215) = 0xF#4 ++ 0x2#4 ++ 0x15#8 ∧ ∃ u, step (ready 0xF215) = .next u := ⟨rfl, by decide, by decide, _, rfl⟩

theorem witness_LdStVxSetsTimer : Running (ready 0xF218) ∧ (ready 0xF218).pc.toNat ≤ 4094 ∧
    wordAtPc (ready 0xF218) = 0xF#4 ++ 0x2#4 ++ 0x18#8 ∧ ∃ u, step (ready 0xF218) = .next u := ⟨rfl, by decide, by decide, _, rfl⟩

theorem witness_DecodeFollowsOpcodeMap : (⟨"CLS", 0xFFFF, 0x00E0⟩ : OpcodeRow) ∈ opcodeMap ∧
    (⟨"LD_Vx___I", 0xF0FF, 0xF065⟩ : OpcodeRow) ∈ opcodeMap := by decide

theorem witness_UnmatchedWordIsIllegal : Running (ready 0xFFFF) ∧ (ready 0xFFFF).pc.toNat ≤ 4094 ∧
    ∀ r ∈ opcodeMap, wordAtPc (ready 0xFFFF) &&& r.mask ≠ r.value := ⟨rfl, by decide, by decide⟩

/-- Each clause: a fetch above 4094, an illegal word, a completing and a faulting instruction. -/
theorem witness_StepRunsDecodedInstr :
    (Running { State.reset with pc := 4095 } ∧ 4094 < ({ State.reset with pc := 4095 } : State).pc.toNat) ∧
    (Running (ready 0x01E0) ∧ (ready 0x01E0).pc.toNat ≤ 4094 ∧ decode (wordAtPc (ready 0x01E0)) = .error .illegalOp0) ∧
    (∃ t, exec .cls { ready 0x00E0 with ir := wordAtPc (ready 0x00E0), pc := (ready 0x00E0).pc + 2 } = .next t ∧
      decode (wordAtPc (ready 0x00E0)) = .ok .cls ∧ t.fault.valid = false) ∧
    (∃ t, exec .ret { ready 0x00EE with ir := wordAtPc (ready 0x00EE), pc := (ready 0x00EE).pc + 2 } = .next t ∧
      decode (wordAtPc (ready 0x00EE)) = .ok .ret ∧ t.fault.valid = true) :=
  ⟨⟨rfl, by decide⟩, ⟨rfl, by decide, by decide⟩, ⟨_, rfl, by decide, by decide⟩, ⟨_, rfl, by decide, by decide⟩⟩

theorem witness_CycleSamplesDrivenInputs : Running (ready 0x6A02) ∧ ∃ u, step (hostDrive (ready 0x6A02) ⟨1, 2⟩) = .next u := ⟨rfl, _, rfl⟩

theorem witness_TimersTickEveryCycle : Running (ready 0x6A02) ∧ ∃ u, CompletesTo (ready 0x6A02) u := ⟨rfl, _, rfl, rfl⟩

theorem witness_FaultsExactlyWhenListed : Running State.reset := rfl

theorem witness_FaultsArePrecise : Running (ready 0x00EE) ∧ ∃ u, step (ready 0x00EE) = .next u ∧ u.fault.valid = true := ⟨rfl, _, rfl, rfl⟩

theorem witness_FaultsArePrecise_fetch : Running { State.reset with pc := 4095 } ∧
    ∃ u, step { State.reset with pc := 4095 } = .next u ∧ u.fault.valid = true := ⟨rfl, _, rfl, rfl⟩

theorem witness_StoppedCoreStaysStopped : stopped.fault.valid = true := by decide

theorem witness_LatchStaysLegal : LatchLegal stopped ∧ LatchLegal (ready 0x00EE) ∧ ∃ u, step (ready 0x00EE) = .next u :=
  ⟨⟨fun h => (by cases h), fun _ => (by decide)⟩, ⟨fun _ => rfl, fun h => (by cases h)⟩, _, rfl⟩

/-- Both bounds are met with equality, and a completing step exists. -/
theorem witness_PcStaysBounded : PcBounded { State.reset with pc := 0x10FE, sp := 16, stack := Vector.replicate 16 0x1000 } ∧
    (PcBounded (ready 0x1234) ∧ ∃ u, step (ready 0x1234) = .next u) :=
  ⟨⟨by decide, by decide⟩, ⟨by decide, by decide⟩, _, rfl⟩

theorem witness_MemoryStaysCanonical : Memory.wf defaultFont [(0x50, 0x77), (0x200, 0x12), (0xFFF, 1)] ∧
    Memory.wf (ready 0xF055).cfg.font (ready 0xF055).mem ∧
    ∃ u, step (ready 0xF055) = .next u := ⟨by decide, by decide, _, rfl⟩

theorem witness_ConfigurationIsStatic : ∃ u, step (ready 0x1234) = .next u := ⟨_, rfl⟩

theorem witness_InstructionsWriteOnlyListedParts : ∃ t, exec (.storeRegs 0) State.reset = .next t := ⟨_, rfl⟩

/-- A flag written by a flag-writing instruction, and a named destination. -/
theorem witness_OnlySixInstructionsWriteFlag :
    (∃ t, exec (.addReg 1 2) (start 0 0 [(1, 0xFF), (2, 1)]) = .next t ∧ t.readV 15 ≠ (start 0 0 [(1, 0xFF), (2, 1)]).readV 15) ∧
    (∃ t, exec (.ldImm 3 1) State.reset = .next t ∧ t.readV 3 ≠ State.reset.readV 3) :=
  ⟨⟨_, rfl, by decide⟩, ⟨_, rfl, by decide⟩⟩

theorem witness_CallsAndReturnsNest : Running State.reset ∧
    State.reset.sp.val + (List.replicate 16 ((0x202, 0x300) : Word × Addr12)).length ≤ 16 := ⟨rfl, by decide⟩

theorem witness_DeadSlotsAndIrAreUnobservable :
    (SameButUnobservable (ready 0x00E0) { ready 0x00E0 with ir := 0x1234, stack := Vector.replicate 16 7 } ∧ ∃ u, step (ready 0x00E0) = .next u) ∧
    (SameButUnobservable stopped { stopped with ir := 1 } ∧ ∃ r, step stopped = .fault r) :=
  ⟨⟨⟨rfl, by decide⟩, _, rfl⟩, ⟨⟨rfl, by decide⟩, _, rfl⟩⟩

theorem witness_StoredWordIsFetched : ({ State.reset with i := 4094 } : State).i.toNat + (1 : Nibble).toNat ≤ 4095 ∧
    (∃ t, exec (.storeRegs 1) { State.reset with i := 4094 } = .next t) ∧ (1 : Nibble).toNat = (0 : Nibble).toNat + 1 ∧
    (1 : Nibble).toNat ≤ (1 : Nibble).toNat ∧ (4094 : Word).toNat = ({ State.reset with i := 4094 } : State).i.toNat + (0 : Nibble).toNat :=
  ⟨by decide, ⟨_, rfl⟩, by decide, by decide, by decide⟩

theorem witness_SelfJumpIsFixedPoint : Running (ready 0x1200) ∧ (ready 0x1200).pc.toNat = (0x200 : Addr12).toNat ∧
    (0x200 : Addr12).toNat ≤ 4094 ∧ wordAtPc (ready 0x1200) = 0x1#4 ++ 0x200#12 ∧ (ready 0x1200).dt = 0 ∧ (ready 0x1200).st = 0 ∧
    ({ ready 0x1200 with ir := 0x1200 } : State).ir = 0x1#4 ++ 0x200#12 :=
  ⟨rfl, by decide, by decide, by decide, by decide, by decide, by decide⟩

theorem witness_HostLoadCopiesProgram : (3583 : Nat) < min (List.replicate 3584 (0 : Byte)).length 3584 := by
  rw [List.length_replicate]; decide

end Sys2Proof.Tests
end

section
/-! SUPPORT. Frames: for each operation on the state, the parts it may write (10_state.md R20 to R29, R33); and from them the parts an
instruction may write. -/

namespace Sys2Proof.Machine

/-! ### The relation -/

theorem Part.same_trans {p : Part} {s t u : State} (h₁ : p.same s t) (h₂ : p.same t u) : p.same s u := by
  cases p <;> simp_all [Part.same]

theorem OnlyChanges.mono {ps qs : List Part} {s t : State} (h : OnlyChanges ps s t) (hsub : ps ⊆ qs) : OnlyChanges qs s t :=
  fun p hp => h p fun hmem => hp (hsub hmem)

theorem OnlyChanges.trans {ps qs : List Part} {s t u : State} (h₁ : OnlyChanges ps s t) (h₂ : OnlyChanges qs t u) :
    OnlyChanges (ps ++ qs) s u := fun p hp =>
  Part.same_trans (h₁ p fun hps => hp (List.mem_append_left _ hps)) (h₂ p fun hqs => hp (List.mem_append_right _ hqs))

/-! ### One frame per operation -/

theorem onlyChanges_setPc {s : State} {a : Word} : OnlyChanges [.pc] s (s.setPc a) := by
  intro p hp; cases p <;> simp [Part.same] at hp ⊢

theorem onlyChanges_setI {s : State} {a : Word} : OnlyChanges [.i] s (s.setI a) := by
  intro p hp; cases p <;> simp [Part.same] at hp ⊢

theorem onlyChanges_setDt {s : State} {b : Byte} : OnlyChanges [.dt] s (s.setDt b) := by
  intro p hp; cases p <;> simp [Part.same] at hp ⊢

theorem onlyChanges_setSt {s : State} {b : Byte} : OnlyChanges [.st] s (s.setSt b) := by
  intro p hp; cases p <;> simp [Part.same] at hp ⊢

theorem onlyChanges_setFb {s : State} {f : FrameBuffer} : OnlyChanges [.fb] s (s.setFb f) := by
  intro p hp; cases p <;> simp [Part.same] at hp ⊢

theorem onlyChanges_writeV {s : State} {x : Nibble} {b : Byte} : OnlyChanges [.v] s (s.writeV x b) := by
  intro p hp; cases p <;> simp [Part.same] at hp ⊢

theorem onlyChanges_writeRegsThrough {s : State} {x : Nibble} {bs : List Byte} : OnlyChanges [.v] s (writeRegsThrough s x bs) := by
  intro p hp; cases p <;> simp [Part.same] at hp ⊢

theorem onlyChanges_takeFault {s : State} {c : FaultCause} {pc0 instr : Word} :
    OnlyChanges [.fault] s (s.takeFault c pc0 instr) := by
  intro p hp; cases p <;> simp [Part.same] at hp ⊢

theorem onlyChanges_skipIf {s : State} {c : Bool} : OnlyChanges [.pc] s (s.skipIf c) := onlyChanges_setPc

theorem onlyChanges_advanceIndex {s : State} {x : Nibble} : OnlyChanges [.i] s (advanceIndex s x) := onlyChanges_setI

theorem onlyChanges_writeResultAndFlag {s : State} {x : Nibble} {b : Byte} {c : Bool} :
    OnlyChanges [.v] s (writeResultAndFlag s x b c) :=
  (onlyChanges_writeV.trans onlyChanges_writeV).mono (by decide)

theorem onlyChanges_of_pop {s t : State} {a : Word} (h : s.pop = some (a, t)) : OnlyChanges [.stack] s t := by
  obtain ⟨-, hp⟩ | ⟨j, -, hp⟩ := pop_cases s
  · simp [hp] at h
  · obtain ⟨-, rfl⟩ := Prod.mk.inj (Option.some.inj (hp.symm.trans h))
    intro p hp; cases p <;> simp [Part.same, State.readV, State.readByte] at hp ⊢

theorem onlyChanges_of_push {s t : State} {a : Word} (h : s.push a = some t) : OnlyChanges [.stack] s t := by
  obtain ⟨-, hp⟩ | ⟨hsp, hp⟩ := push_cases s a
  · simp [hp] at h
  · obtain rfl := Option.some.inj (hp.symm.trans h)
    intro p hp; cases p <;> simp [Part.same, State.readV, State.readByte] at hp ⊢

theorem onlyChanges_of_store {s t : State} {a : Nat} {bs : List Byte} (h : s.store a bs = some t) : OnlyChanges [.mem] s t := by
  obtain ⟨-, rfl⟩ := State.store_eq_some.1 h
  intro p hp; cases p <;> simp [Part.same, State.readV] at hp ⊢

/-! ### The frame of an instruction -/

/-- A skip on a key level writes `PC`, or the latch where `V[x]` is no key (44_keypad_timers.md R191, R192). -/
theorem onlyChanges_of_skipOnKey {s t : State} {x : Nibble} {level : Bool} (h : skipOnKey x level s = .next t) :
    OnlyChanges [.pc, .fault] s t := by
  unfold skipOnKey at h
  split at h <;> cases h
  · exact onlyChanges_takeFault.mono (by decide)
  · exact onlyChanges_skipIf.mono (by decide)

/-- An instruction writes only the parts the rules give it. -/
theorem exec_onlyChanges {i : Instr} {s t : State} (h : exec i s = .next t) : OnlyChanges (writtenParts i) s t := by
  cases i with
  | cls => cases h; exact onlyChanges_setFb
  | jp | jpV0 => cases h; exact onlyChanges_setPc
  | seImm | sneImm | seReg | sneReg => cases h; exact onlyChanges_skipIf
  | ldImm | addImm | ldReg | orReg | andReg | xorReg | rnd | ldVxDt => cases h; exact onlyChanges_writeV
  | addReg | subReg | shr | subnReg | shl => cases h; exact onlyChanges_writeResultAndFlag
  | ldI | addI | ldF => cases h; exact onlyChanges_setI
  | ldDtVx => cases h; exact onlyChanges_setDt
  | ldStVx => cases h; exact onlyChanges_setSt
  | skp | sknp => exact onlyChanges_of_skipOnKey h
  | ldVxK x =>
    cases h
    cases leastKey s.keys
    · exact onlyChanges_setPc.mono (by simp [writtenParts])
    · exact onlyChanges_writeV.mono (by simp [writtenParts])
  | ret =>
    simp only [exec, execRet] at h
    split at h <;> cases h
    · exact onlyChanges_takeFault.mono (by simp [writtenParts])
    · exact ((onlyChanges_of_pop ‹_›).trans onlyChanges_setPc).mono (by simp [writtenParts])
  | call nnn =>
    simp only [exec, execCall] at h
    split at h <;> cases h
    · exact onlyChanges_takeFault.mono (by simp [writtenParts])
    · exact ((onlyChanges_of_push ‹_›).trans onlyChanges_setPc).mono (by simp [writtenParts])
  | drw x y n =>
    simp only [exec, execDrw] at h
    split at h <;> cases h
    · exact onlyChanges_takeFault.mono (by simp [writtenParts])
    · exact (onlyChanges_setFb.trans onlyChanges_writeV).mono (by simp [writtenParts])
  | ldB x =>
    simp only [exec, execLdB] at h
    split at h <;> cases h
    · exact onlyChanges_takeFault.mono (by simp [writtenParts])
    · exact (onlyChanges_of_store ‹_›).mono (by simp [writtenParts])
  | storeRegs x =>
    simp only [exec, execStoreRegs] at h
    split at h <;> cases h
    · exact onlyChanges_takeFault.mono (by simp [writtenParts])
    · exact ((onlyChanges_of_store ‹_›).trans onlyChanges_advanceIndex).mono (by simp [writtenParts])
  | loadRegs x =>
    simp only [exec, execLoadRegs] at h
    split at h <;> cases h
    · exact onlyChanges_takeFault.mono (by simp [writtenParts])
    · exact (onlyChanges_writeRegsThrough.trans onlyChanges_advanceIndex).mono (by simp [writtenParts])

/-- Settles O51: the frame of each operation an instruction is made of, composed. -/
theorem instructionsWriteOnlyListedParts : Obligations.InstructionsWriteOnlyListedParts :=
  fun _ _ _ h => exec_onlyChanges h

end Sys2Proof.Machine
end

section
/-! SUPPORT. What a step does, seen from its end: it takes a fault, or one instruction completed (60_exceptions.md R211, R216); and the
invariants of the machine that follow from it and from the frames. -/

namespace Sys2Proof.Machine

/-- A step that answers a next state either latched a fault and otherwise only consumed its inputs, or completed one instruction
(60_exceptions.md R211, R216). -/
theorem step_fault_or_completes {s u : State} (h : step s = .next u) :
    (∃ c pc0 instr, c ≠ FaultCause.none ∧ u = s.nextInput.takeFault c pc0 instr) ∨
    (∃ w i t, s.fetch = some w ∧ exec i (s.fetched w) = .next t ∧ t.fault = s.fault ∧ u = t.tick.nextInput) := by
  obtain ⟨hrun, ⟨-, rfl⟩ | ⟨w, e, -, -, rfl⟩ | ⟨w, i, t, hw, -, ht, rfl⟩⟩ := step_cases h
  · exact .inl ⟨_, _, _, by decide, rfl⟩
  · exact .inl ⟨_, _, _, by decide, rfl⟩
  · obtain ⟨t', ht', hkeep⟩ | ⟨c, hc, ht'⟩ := exec_cases i (s.fetched w) <;> obtain rfl := Host.Outcome.next.inj (ht.symm.trans ht')
    · exact .inr ⟨w, i, t, hw, ht, hkeep, endOfCycle_of_running s t (hkeep ▸ hrun)⟩
    · exact .inl ⟨c, _, _, hc, endOfCycle_of_faulted s _ rfl⟩

theorem cfg_not_mem_writtenParts (i : Instr) : Part.cfg ∉ writtenParts i := by cases i <;> simp [writtenParts]

theorem inputs_not_mem_writtenParts (i : Instr) : Part.inputs ∉ writtenParts i := by cases i <;> simp [writtenParts]

/-- A step keeps the configuration and consumes one input sample (10_state.md R31, R32, R34). -/
theorem step_cfg_inputs {s u : State} (h : step s = .next u) :
    u.cfg = s.cfg ∧ u.inputs = s.inputs.tail ∧ u.drawn = s.drawn + 1 := by
  obtain ⟨c, pc0, instr, -, rfl⟩ | ⟨w, i, t, -, ht, -, rfl⟩ := step_fault_or_completes h
  · exact ⟨rfl, rfl, rfl⟩
  · have hcfg : t.cfg = s.cfg := exec_onlyChanges ht .cfg (cfg_not_mem_writtenParts i)
    have hin : t.inputs = s.inputs ∧ t.drawn = s.drawn := exec_onlyChanges ht .inputs (inputs_not_mem_writtenParts i)
    simp [hcfg, hin]

/-- A requested cycle leaves a stopped core as it is, and is a step on the driven inputs otherwise (60_exceptions.md R217, R233). -/
theorem hostCycle_cases (s : State) (k : Inputs) : hostCycle s k = s ∨ step (hostDrive s k) = .next (hostCycle s k) := by
  unfold hostCycle
  split
  · exact .inr ‹_›
  · exact .inl rfl
  · exact .inl rfl

/-- Settles O50: the configuration is outside every instruction's frame. -/
theorem configurationIsStatic : Obligations.ConfigurationIsStatic := by
  refine fun s => ⟨fun u h => (step_cfg_inputs h).1, fun op => ?_⟩
  cases op with
  | cycle k =>
    obtain h | h := hostCycle_cases s k
    · exact congrArg State.cfg h
    · exact (step_cfg_inputs h).1
  | reset => rfl
  | load bytes => rfl

/-- Settles O41: the sample driven is the head of the stream, which a step drops. -/
theorem cycleSamplesDrivenInputs : Obligations.CycleSamplesDrivenInputs := by
  refine fun s u k _ => ⟨State.keys_of_cons _ k s.inputs rfl, State.rnd_of_cons _ k s.inputs rfl, fun h => ?_⟩
  obtain ⟨-, hinputs, hdrawn⟩ := step_cfg_inputs h
  exact ⟨hinputs, hdrawn⟩

/-! ### The latch (10_state.md R33; 60_exceptions.md R213) -/

theorem latchLegal_takeFault {s : State} {c : FaultCause} {pc0 instr : Word} (hc : c ≠ .none) :
    LatchLegal (s.takeFault c pc0 instr) := ⟨nofun, fun _ => hc⟩

theorem latchLegal_of_fault_eq {s t : State} (h : t.fault = s.fault) (hs : LatchLegal s) : LatchLegal t := by
  unfold LatchLegal; rwa [h]

theorem step_keeps_latchLegal {s u : State} (hs : LatchLegal s) (h : step s = .next u) : LatchLegal u := by
  obtain ⟨c, pc0, instr, hc, rfl⟩ | ⟨w, i, t, -, -, hfault, rfl⟩ := step_fault_or_completes h
  · exact latchLegal_takeFault hc
  · exact latchLegal_of_fault_eq hfault hs

theorem latchLegal_reset : LatchLegal State.reset := ⟨fun _ => rfl, nofun⟩

/-- Settles O46: a step either names a cause or keeps the latch, Reset clears it and Load keeps it. -/
theorem latchStaysLegal : Obligations.LatchStaysLegal := by
  refine fun s hs => ⟨fun u => step_keeps_latchLegal hs, fun op => ?_⟩
  cases op with
  | cycle k =>
    obtain h | h := hostCycle_cases s k
    · exact latchLegal_of_fault_eq (congrArg State.fault h) hs
    · exact step_keeps_latchLegal (s := hostDrive s k) hs h
  | reset => exact latchLegal_of_fault_eq (s := State.reset) rfl latchLegal_reset
  | load bytes => exact latchLegal_of_fault_eq (s := s) rfl hs

/-- Settles O49: the stack is empty, the latch is clear and memory lists no cell. -/
theorem resetMeetsInvariants : Obligations.ResetMeetsInvariants :=
  ⟨⟨by decide, by decide⟩, latchLegal_reset, ⟨.nil, nofun⟩, rfl⟩

/-! ### Reset (10_state.md R38) -/

/-- Whatever the configuration and the inputs, everything else at its reset value is what the rule lists. -/
theorem hasResetValues_reset_with (cfg : Config) (inputs : List Inputs) (drawn : Nat) :
    HasResetValues { State.reset with cfg := cfg, inputs := inputs, drawn := drawn } := by
  refine ⟨?_, rfl, rfl, rfl, rfl, rfl, ?_, rfl, fun px py _ _ => FrameBuffer.pixel_blank px py,
    fun a ha => resetByte_zero cfg.font (.inl ha), fun j => resetByte_font cfg.font j,
    fun a ha _ => resetByte_zero cfg.font (.inr ha), rfl, rfl, rfl, rfl⟩
  · simp [State.readV, State.reset]
  · simp [State.reset]

/-- Settles O57: both reset states differ from the listed values at most in the configuration and the inputs. -/
theorem resetLeavesListedValues : Obligations.ResetLeavesListedValues :=
  ⟨hasResetValues_reset_with _ _ _, fun s => ⟨hasResetValues_reset_with s.cfg s.inputs s.drawn, rfl, rfl, rfl⟩⟩

/-! ### Registers (10_state.md R20, R21) -/

theorem eq_of_readV_writeV_ne {s : State} {x r : Nibble} {b : Byte} (h : (s.writeV x b).readV r ≠ s.readV r) : x = r := by
  by_contra hx
  exact h (by rw [State.writeV_readV, if_neg hx])

theorem eq_or_flag_of_readV_writeResultAndFlag_ne {s : State} {x r : Nibble} {b : Byte} {c : Bool}
    (h : (writeResultAndFlag s x b c).readV r ≠ s.readV r) : x = r ∨ r = flagReg := by
  by_contra hn
  obtain ⟨hx, hf⟩ := not_or.1 hn
  exact h (by simp [hf, Ne.symm hx])

theorem le_of_readV_writeRegsThrough_ne {s : State} {x r : Nibble} {bs : List Byte}
    (h : (writeRegsThrough s x bs).readV r ≠ s.readV r) : r.toNat ≤ x.toNat := by
  by_contra hn
  exact h (by rw [writeRegsThrough_readV, if_neg hn])

/-- Settles O52: an instruction that may write a register at all writes it by one of the three register operations. -/
theorem onlySixInstructionsWriteFlag : Obligations.OnlySixInstructionsWriteFlag := by
  intro i s t r h hne
  have hframe : Part.v ∈ writtenParts i := by
    by_contra hv
    exact hne (exec_onlyChanges h .v hv r)
  cases i with
  | cls | ret | jp | call | seImm | sneImm | seReg | sneReg | ldI | jpV0 | skp | sknp | ldDtVx | ldStVx | addI | ldF | ldB | storeRegs =>
    simp [writtenParts] at hframe
  | ldImm | addImm | ldReg | orReg | andReg | xorReg | rnd | ldVxDt =>
    cases h
    exact .inl (beq_iff_eq.2 (eq_of_readV_writeV_ne hne))
  | addReg | subReg | shr | subnReg | shl =>
    cases h
    exact (eq_or_flag_of_readV_writeResultAndFlag_ne hne).imp beq_iff_eq.2 fun hf => ⟨hf, rfl⟩
  | ldVxK x =>
    cases h
    cases hk : leastKey s.keys <;> rw [hk] at hne
    · exact absurd rfl hne
    · exact .inl (beq_iff_eq.2 (eq_of_readV_writeV_ne hne))
  | drw x y n =>
    simp only [exec, execDrw] at h
    split at h <;> cases h
    · exact absurd rfl hne
    · exact .inr ⟨(eq_of_readV_writeV_ne (s := s.setFb _) hne).symm, rfl⟩
  | loadRegs x =>
    simp only [exec, execLoadRegs] at h
    split at h <;> cases h
    · exact absurd rfl hne
    · exact .inl (decide_eq_true (le_of_readV_writeRegsThrough_ne hne))

end Sys2Proof.Machine
end

section
/-! SUPPORT. The bound on `PC` and on the return addresses in use (10_state.md R23): an instruction that fetched starts with `PC` between 2
and 0x1000, and the furthest it can then go is `JP V0, NNN` to 0xFFF + 0xFF. -/

namespace Sys2Proof.Machine

theorem PcBounded.of_eq {s t : State} (hs : PcBounded s) (hpc : t.pc = s.pc) (hsp : t.sp = s.sp) (hstack : t.stack = s.stack) :
    PcBounded t := by
  unfold PcBounded
  rwa [hpc, hsp, hstack]

theorem addrOperand_le (nnn : Addr12) : (addrOperand nnn).toNat ≤ 0x0FFF := by
  have := nnn.isLt
  rw [addrOperand, BitVec.toNat_setWidth]
  omega

theorem wideOperand_le (b : Byte) : (wideOperand b).toNat ≤ 0xFF := by
  have := b.isLt
  rw [wideOperand, BitVec.toNat_setWidth]
  omega

/-- The sum of a 12-bit address and a register does not wrap (40_control_flow.md R118). -/
theorem addrOperand_add_wideOperand_le (nnn : Addr12) (b : Byte) : (addrOperand nnn + wideOperand b).toNat ≤ 0x10FE := by
  have hn := addrOperand_le nnn
  have hb := wideOperand_le b
  rw [BitVec.toNat_add]
  omega

theorem skipIf_pc_le {s : State} (c : Bool) (hpc : s.pc.toNat ≤ 0x1000) : (s.skipIf c).pc.toNat ≤ 0x10FE := by
  rw [State.skipIf_pc]
  split <;> bv_omega

theorem skipOnKey_pc_le {s t : State} {x : Nibble} {level : Bool} (hpc : s.pc.toNat ≤ 0x1000) (h : skipOnKey x level s = .next t) :
    t.pc.toNat ≤ 0x10FE := by
  unfold skipOnKey at h
  split at h <;> cases h
  · exact hpc.trans (by decide)
  · exact skipIf_pc_le _ hpc

/-- Where an instruction that was fetched below 0x0FFF leaves `PC` (10_state.md R23). -/
theorem exec_pc_le {i : Instr} {s t : State} (hlo : 2 ≤ s.pc.toNat) (hhi : s.pc.toNat ≤ 0x1000)
    (hs : PcBounded s) (h : exec i s = .next t) : t.pc.toNat ≤ 0x10FE := by
  obtain ⟨-, hlive⟩ := hs
  have hkept : Part.pc ∉ writtenParts i → t.pc.toNat ≤ 0x10FE := fun hn => by
    rw [exec_onlyChanges h .pc hn]
    omega
  cases i with
  | jp nnn =>
    cases h
    exact (addrOperand_le nnn).trans (by decide)
  | jpV0 nnn =>
    cases h
    exact addrOperand_add_wideOperand_le nnn _
  | seImm | sneImm | seReg | sneReg =>
    cases h
    exact skipIf_pc_le _ hhi
  | skp | sknp => exact skipOnKey_pc_le hhi h
  | ldVxK x =>
    cases h
    cases leastKey s.keys with
    | none =>
      show (s.pc - 2).toNat ≤ 0x10FE
      bv_omega
    | some k => exact hhi.trans (by decide)
  | ret =>
    obtain ⟨-, hp⟩ | ⟨j, hj, hp⟩ := pop_cases s <;> simp only [exec, execRet, hp] at h <;> cases h
    · exact hhi.trans (by decide)
    · exact (hlive j (by omega)).trans (by decide)
  | call nnn =>
    obtain ⟨-, hp⟩ | ⟨_, hp⟩ := push_cases s s.pc <;> simp only [exec, execCall, hp] at h <;> cases h
    · exact hhi.trans (by decide)
    · exact (addrOperand_le nnn).trans (by decide)
  | _ => exact hkept (by simp [writtenParts])

theorem ret_or_call_of_stack_mem {i : Instr} (h : Part.stack ∈ writtenParts i) : i = .ret ∨ ∃ nnn, i = .call nnn := by
  cases i with
  | ret => exact .inl rfl
  | call nnn => exact .inr ⟨nnn, rfl⟩
  | _ => simp [writtenParts] at h

/-- A return address in use is an old one or the advanced `PC` of a CALL (10_state.md R23, R27). -/
theorem exec_live_le {i : Instr} {s t : State} (hhi : s.pc.toNat ≤ 0x1000)
    (hs : PcBounded s) (h : exec i s = .next t) :
    ∀ j : Fin 16, j.val < t.sp.val → (t.stack[j]).toNat ≤ 0x1000 := by
  obtain ⟨-, hlive⟩ := hs
  by_cases hw : Part.stack ∈ writtenParts i
  · obtain rfl | ⟨nnn, rfl⟩ := ret_or_call_of_stack_mem hw
    · obtain ⟨-, hp⟩ | ⟨k, hk, hp⟩ := pop_cases s <;> simp only [exec, execRet, hp] at h <;> cases h
      · exact hlive
      · exact fun j hj => hlive j (by simp at hj; omega)
    · obtain ⟨-, hp⟩ | ⟨hlt, hp⟩ := push_cases s s.pc <;> simp only [exec, execCall, hp] at h <;> cases h
      · exact hlive
      · intro j hj
        have hj : j.val < s.sp.val + 1 := hj
        show ((s.stack.set s.sp.val s.pc hlt)[j.val]).toNat ≤ 0x1000
        rw [Vector.getElem_set]
        split
        · exact hhi
        · exact hlive j (by omega)
  · obtain ⟨hsp, hstack⟩ := exec_onlyChanges h .stack hw
    rwa [hsp, hstack]

/-- An instruction that was fetched below 0x0FFF keeps the bound (10_state.md R23). -/
theorem exec_keeps_pcBounded {i : Instr} {s t : State} (hlo : 2 ≤ s.pc.toNat) (hhi : s.pc.toNat ≤ 0x1000)
    (hs : PcBounded s) (h : exec i s = .next t) : PcBounded t :=
  ⟨exec_pc_le hlo hhi hs h, exec_live_le hhi hs h⟩

/-- Settles O47: a fault keeps `PC` and the stack, and a completing instruction started with `PC` 2 above the address it was fetched at. -/
theorem pcStaysBounded : Obligations.PcStaysBounded := by
  intro s u hs h
  obtain ⟨c, pc0, instr, -, rfl⟩ | ⟨w, i, t, hw, ht, -, rfl⟩ := step_fault_or_completes h
  · exact hs.of_eq rfl rfl rfl
  · obtain ⟨hfetch, -⟩ := State.fetch_eq_some.1 hw
    have hpc : (s.fetched w).pc.toNat = s.pc.toNat + 2 := by
      rw [State.fetched_pc]
      bv_omega
    have hfetched : PcBounded (s.fetched w) := ⟨by omega, hs.2⟩
    exact (exec_keeps_pcBounded (by omega) (by omega) hfetched ht).of_eq rfl rfl rfl

end Sys2Proof.Machine
end

section
/-! SUPPORT. `IR` and the stack slots at or above `SP` are unobservable (10_state.md R27, R28; 60_exceptions.md R229): after the fetch `IR`
holds the same word in both states, so an instruction only has to carry a difference in the dead slots along. -/

namespace Sys2Proof.Machine

/-- The relation as a parametrisation: the second state is the first with another `IR` and another stack that agrees on the slots in use. -/
theorem sameButUnobservable_iff {s t : State} :
    SameButUnobservable s t ↔
      ∃ ir stack, (∀ j : Fin 16, j.val < s.sp.val → stack[j] = s.stack[j]) ∧ t = { s with ir := ir, stack := stack } := by
  constructor
  · rintro ⟨heq, hlive⟩
    exact ⟨t.ir, t.stack, hlive, heq⟩
  · rintro ⟨ir, stack, hlive, rfl⟩
    exact ⟨rfl, hlive⟩

theorem SameButUnobservable.outputs_eq {s t : State} (h : SameButUnobservable s t) : outputs s = outputs t := by
  obtain ⟨_, _, -, rfl⟩ := sameButUnobservable_iff.1 h
  rfl

/-- The end of a cycle keeps the relation, whether the instruction completed or its writes are discarded (60_exceptions.md R216). -/
theorem SameButUnobservable.endOfCycle {s t s' t' : State} (h : SameButUnobservable s t) (h' : SameButUnobservable s' t') :
    SameButUnobservable (endOfCycle s s') (endOfCycle t t') := by
  obtain ⟨_, _, hlive, rfl⟩ := sameButUnobservable_iff.1 h
  obtain ⟨_, _, hlive', rfl⟩ := sameButUnobservable_iff.1 h'
  unfold Machine.endOfCycle
  split
  · exact ⟨rfl, hlive⟩
  · exact ⟨rfl, hlive'⟩

/-! ### Another stack -/

/-- The state with another stack and the same `SP`. -/
def State.withStack (s : State) (stack : Vector Word 16) : State := { s with stack := stack }

@[simp] theorem State.withStack_i (s : State) (stack : Vector Word 16) : (s.withStack stack).i = s.i := rfl
@[simp] theorem State.withStack_pc (s : State) (stack : Vector Word 16) : (s.withStack stack).pc = s.pc := rfl
@[simp] theorem State.withStack_keys (s : State) (stack : Vector Word 16) : (s.withStack stack).keys = s.keys := rfl
@[simp] theorem State.withStack_readV (s : State) (stack : Vector Word 16) (r : Nibble) :
    (s.withStack stack).readV r = s.readV r := rfl
@[simp] theorem State.withStack_load (s : State) (stack : Vector Word 16) (a n : Nat) :
    (s.withStack stack).load a n = s.load a n := rfl
@[simp] theorem regsThrough_withStack (s : State) (stack : Vector Word 16) (x : Nibble) :
    regsThrough (s.withStack stack) x = regsThrough s x := rfl

/-- A store carries any stack along. -/
@[simp] theorem State.withStack_store (s : State) (stack : Vector Word 16) (a : Nat) (bs : List Byte) :
    (s.withStack stack).store a bs = (s.store a bs).map (·.withStack stack) := by
  obtain ⟨hr, hs⟩ | ⟨hr, hs⟩ := store_cases s a bs <;> rw [hs]
  · exact State.store_eq_none.2 hr
  · exact State.store_of_inRange _ hr

theorem sameButUnobservable_withStack {s : State} {stack : Vector Word 16}
    (hlive : ∀ j : Fin 16, j.val < s.sp.val → stack[j] = s.stack[j]) : SameButUnobservable s (s.withStack stack) := ⟨rfl, hlive⟩

/-! ### Instructions -/

/-- A skip on a key level carries any stack along (44_keypad_timers.md R191, R192). -/
theorem skipOnKey_withStack {x : Nibble} {level : Bool} {s t : State} (stack : Vector Word 16) (h : skipOnKey x level s = .next t) :
    skipOnKey x level (s.withStack stack) = .next (t.withStack stack) := by
  unfold skipOnKey at h
  split at h <;> cases h
  · exact if_pos ‹_›
  · exact if_neg ‹_›

/-- An instruction other than RET and CALL carries any stack along. -/
theorem exec_withStack {i : Instr} {s t : State} (stack : Vector Word 16) (hi : Part.stack ∉ writtenParts i)
    (h : exec i s = .next t) : exec i (s.withStack stack) = .next (t.withStack stack) := by
  cases i with
  | ret | call => simp [writtenParts] at hi
  | skp | sknp => exact skipOnKey_withStack stack h
  | ldVxK x =>
    cases h
    simp only [exec, execLdVxK, State.withStack_keys]
    cases leastKey s.keys <;> rfl
  | drw x y n =>
    simp only [exec, execDrw, State.withStack_load, State.withStack_i] at h ⊢
    cases hl : s.load s.i.toNat n.toNat <;> rw [hl] at h <;> cases h <;> rfl
  | loadRegs x =>
    simp only [exec, execLoadRegs, State.withStack_load, State.withStack_i] at h ⊢
    cases hl : s.load s.i.toNat (x.toNat + 1) <;> rw [hl] at h <;> cases h <;> rfl
  | ldB x =>
    simp only [exec, execLdB, State.withStack_store, State.withStack_i, State.withStack_readV] at h ⊢
    cases hs : s.store s.i.toNat (bcdDigits (s.readV x)) <;> rw [hs] at h <;> cases h <;> rfl
  | storeRegs x =>
    simp only [exec, execStoreRegs, State.withStack_store, State.withStack_i, regsThrough_withStack] at h ⊢
    cases hs : s.store s.i.toNat (regsThrough s x) <;> rw [hs] at h <;> cases h <;> rfl
  | _ => cases h; rfl

/-- RET reads the slot below `SP` and frees it (40_control_flow.md R111). -/
theorem execRet_withStack {s u : State} {stack : Vector Word 16}
    (hlive : ∀ j : Fin 16, j.val < s.sp.val → stack[j] = s.stack[j]) (h : execRet s = .next u) :
    ∃ v, execRet (s.withStack stack) = .next v ∧ SameButUnobservable u v := by
  obtain ⟨hsp, hp⟩ | ⟨k, hk, hp⟩ := pop_cases s <;> simp only [execRet, hp] at h <;> cases h
  · have hp' : (s.withStack stack).pop = none := State.pop_eq_none.2 hsp
    exact ⟨_, by simp only [execRet, hp']; rfl, sameButUnobservable_withStack (s := s.takeFault ..) hlive⟩
  · have hp' := State.pop_of_succ (s := s.withStack stack) k hk
    have htop : (s.withStack stack).stack[k] = s.stack[k] := hlive k (by omega)
    refine ⟨_, by simp only [execRet, hp', htop]; rfl, rfl, fun j hj => hlive j ?_⟩
    have hj : j.val < k.val := hj
    omega

/-- CALL writes the slot at `SP`, alike in both stacks (40_control_flow.md R113). -/
theorem execCall_withStack {nnn : Addr12} {s u : State} {stack : Vector Word 16}
    (hlive : ∀ j : Fin 16, j.val < s.sp.val → stack[j] = s.stack[j]) (h : execCall nnn s = .next u) :
    ∃ v, execCall nnn (s.withStack stack) = .next v ∧ SameButUnobservable u v := by
  obtain ⟨hsp, hp⟩ | ⟨hlt, hp⟩ := push_cases s s.pc <;> simp only [execCall, hp] at h <;> cases h
  · have hp' : (s.withStack stack).push s.pc = none := State.push_eq_none.2 hsp
    exact ⟨_, by simp only [execCall, State.withStack_pc, hp']; rfl, sameButUnobservable_withStack (s := s.takeFault ..) hlive⟩
  · have hp' := State.push_of_lt (s := s.withStack stack) s.pc hlt
    refine ⟨_, by simp only [execCall, State.withStack_pc, hp']; rfl, rfl, fun j hj => ?_⟩
    have hj : j.val < s.sp.val + 1 := hj
    show (stack.set s.sp.val s.pc hlt)[j.val] = (s.stack.set s.sp.val s.pc hlt)[j.val]
    rw [Vector.getElem_set, Vector.getElem_set]
    split
    · rfl
    · exact hlive j (by omega)

/-- An instruction answers alike whatever the slots at or above `SP` hold, and keeps a difference there (10_state.md R27). -/
theorem exec_withStack_of_live {i : Instr} {s u : State} {stack : Vector Word 16}
    (hlive : ∀ j : Fin 16, j.val < s.sp.val → stack[j] = s.stack[j]) (h : exec i s = .next u) :
    ∃ v, exec i (s.withStack stack) = .next v ∧ SameButUnobservable u v := by
  by_cases hw : Part.stack ∈ writtenParts i
  · obtain rfl | ⟨nnn, rfl⟩ := ret_or_call_of_stack_mem hw
    · exact execRet_withStack hlive h
    · exact execCall_withStack hlive h
  · obtain ⟨hsp, hstack⟩ := exec_onlyChanges h .stack hw
    exact ⟨_, exec_withStack stack hw h, sameButUnobservable_withStack (by rwa [hsp, hstack])⟩

/-! ### Steps -/

theorem step_of_fetch_none {s : State} (hrun : Running s) (hf : s.fetch = none) :
    step s = .next (s.nextInput.takeFault .outOfRangeAccess s.pc 0) := by
  simp only [step_of_running hrun, cycle, hf]

theorem step_of_decode_error {s : State} {w : Word} {e : DecodeError} (hrun : Running s) (hf : s.fetch = some w)
    (hd : decode w = .error e) : step s = .next (s.nextInput.takeFault .illegalInstruction s.pc w) := by
  simp only [step_of_running hrun, cycle, hf, hd]

theorem step_of_exec {s t : State} {w : Word} {i : Instr} (hrun : Running s) (hf : s.fetch = some w) (hd : decode w = .ok i)
    (ht : exec i (s.fetched w) = .next t) : step s = .next (endOfCycle s t) := by
  simp only [step_of_running hrun, cycle, hf, hd, ht]

/-- A running core does not stop (60_exceptions.md R217). -/
theorem stopped_of_step_fault {s : State} {r : Fault} (h : step s = .fault r) : s.fault.valid = true := by
  by_contra hv
  have hrun : Running s := Bool.eq_false_of_not_eq_true hv
  cases hf : s.fetch with
  | none => cases (step_of_fetch_none hrun hf).symm.trans h
  | some w =>
    cases hd : decode w with
    | error e => cases (step_of_decode_error hrun hf hd).symm.trans h
    | ok i =>
      obtain ⟨t, ht, -⟩ | ⟨c, -, ht⟩ := exec_cases i (s.fetched w) <;> cases (step_of_exec hrun hf hd ht).symm.trans h

/-- A step keeps the relation. -/
theorem SameButUnobservable.step {s t u : State} (h : SameButUnobservable s t) (hu : step s = .next u) :
    ∃ v, Machine.step t = .next v ∧ SameButUnobservable u v := by
  obtain ⟨ir, stack, hlive, rfl⟩ := sameButUnobservable_iff.1 h
  obtain ⟨hrun, ⟨hf, rfl⟩ | ⟨w, e, hf, hd, rfl⟩ | ⟨w, i, t, hf, hd, ht, rfl⟩⟩ := step_cases hu
  · exact ⟨_, step_of_fetch_none hrun hf, rfl, hlive⟩
  · exact ⟨_, step_of_decode_error hrun hf hd, rfl, hlive⟩
  · obtain ⟨v, hv, hsame⟩ := exec_withStack_of_live (s := s.fetched w) hlive ht
    exact ⟨_, step_of_exec hrun hf hd hv, h.endOfCycle hsame⟩

/-- Settles O54: the fetch, the latch and the outputs read neither `IR` nor the stack, and an instruction reads the stack below `SP` alone. -/
theorem deadSlotsAndIrAreUnobservable : Obligations.DeadSlotsAndIrAreUnobservable := by
  refine fun s t hsame => ⟨fun u hu => ?_, fun r hr => ?_⟩
  · obtain ⟨v, hv, hsame'⟩ := hsame.step hu
    exact ⟨v, hv, hsame', hsame'.outputs_eq⟩
  · have hstop := stopped_of_step_fault hr
    obtain ⟨ir, stack, -, rfl⟩ := sameButUnobservable_iff.1 hsame
    rw [← hr, step_of_stopped hstop]
    exact step_of_stopped hstop

end Sys2Proof.Machine
end

section
/-! SUPPORT. Memory over a whole machine step: every store is a checked transfer, so memory keeps its canonical form (20_memory.md R50,
R57); and the bytes of LD [I], Vx are what a later fetch reads (R55, R65). -/

namespace Sys2Proof.Machine

/-! ### The canonical form (20_memory.md R50, R57) -/

/-- A skip on a key level leaves the memory list alone, whether it skips or faults (44_keypad_timers.md R191, R192). -/
theorem mem_eq_of_skipOnKey {s t : State} {x : Nibble} {level : Bool} (h : skipOnKey x level s = .next t) : t.mem = s.mem := by
  unfold skipOnKey at h
  split at h <;> cases h <;> rfl

/-- What an instruction does to the memory list: nothing, or one transfer inside the address space (20_memory.md R57). -/
theorem exec_mem_cases {i : Instr} {s t : State} (h : exec i s = .next t) :
    t.mem = s.mem ∨ ∃ a bs, inRange a bs.length ∧ t.mem = Memory.writeBytes s.cfg.font s.mem a bs := by
  cases i with
  | ldB x =>
    obtain ⟨-, hs⟩ | ⟨hin, hs⟩ := store_cases s s.i.toNat (bcdDigits (s.readV x)) <;> simp only [exec, execLdB, hs] at h <;> cases h
    · exact .inl rfl
    · exact .inr ⟨_, _, hin, rfl⟩
  | storeRegs x =>
    obtain ⟨-, hs⟩ | ⟨hin, hs⟩ := store_cases s s.i.toNat (regsThrough s x) <;> simp only [exec, execStoreRegs, hs] at h <;> cases h
    · exact .inl rfl
    · exact .inr ⟨_, _, hin, rfl⟩
  | skp | sknp => exact .inl (mem_eq_of_skipOnKey h)
  | ldVxK x =>
    cases h
    cases leastKey s.keys <;> exact .inl rfl
  | ret =>
    obtain ⟨-, hp⟩ | ⟨_, -, hp⟩ := pop_cases s <;> simp only [exec, execRet, hp] at h <;> cases h <;> exact .inl rfl
  | call nnn =>
    obtain ⟨-, hp⟩ | ⟨_, hp⟩ := push_cases s s.pc <;> simp only [exec, execCall, hp] at h <;> cases h <;> exact .inl rfl
  | drw x y n =>
    obtain ⟨-, hl⟩ | ⟨-, hl⟩ := load_cases s s.i.toNat n.toNat <;> simp only [exec, execDrw, hl] at h <;> cases h <;> exact .inl rfl
  | loadRegs x =>
    obtain ⟨-, hl⟩ | ⟨-, hl⟩ := load_cases s s.i.toNat (x.toNat + 1) <;> simp only [exec, execLoadRegs, hl] at h <;> cases h <;>
      exact .inl rfl
  | _ => cases h; exact .inl rfl

theorem exec_keeps_memory_wf {i : Instr} {s t : State} (hs : Memory.wf s.cfg.font s.mem) (h : exec i s = .next t) :
    Memory.wf t.cfg.font t.mem := by
  have hcfg : t.cfg = s.cfg := exec_onlyChanges h .cfg (cfg_not_mem_writtenParts i)
  obtain hmem | ⟨a, bs, hin, hmem⟩ := exec_mem_cases h <;> rw [hcfg, hmem]
  · exact hs
  · exact Memory.wf_writeBytes hs hin

theorem step_keeps_memory_wf {s u : State} (hs : Memory.wf s.cfg.font s.mem) (h : step s = .next u) :
    Memory.wf u.cfg.font u.mem := by
  obtain ⟨c, pc0, instr, -, rfl⟩ | ⟨w, i, t, -, ht, -, rfl⟩ := step_fault_or_completes h
  · exact hs
  · exact exec_keeps_memory_wf (s := s.fetched w) (t := t) hs ht

/-- A loaded program, cut at `PROG_CAP`, ends at the last address (70_reset_and_hazards.md R254, R255). -/
theorem inRange_program (bytes : List Byte) : inRange Config.progBase (bytes.take Config.progCap).length := by
  have hlen : (bytes.take Config.progCap).length ≤ 3584 := List.length_take_le _ _
  refine inRange_iff.2 (.inr ?_)
  unfold Config.progBase
  omega

/-- Settles O48: an instruction and Load store only by transfers inside the address space, and Reset lists no cell. -/
theorem memoryStaysCanonical : Obligations.MemoryStaysCanonical := by
  refine fun s hs => ⟨fun u => step_keeps_memory_wf hs, fun op => ?_⟩
  cases op with
  | cycle k =>
    obtain h | h := hostCycle_cases s k
    · show Memory.wf (hostCycle s k).cfg.font (hostCycle s k).mem
      rwa [h]
    · exact step_keeps_memory_wf (s := hostDrive s k) hs h
  | reset => exact ⟨.nil, nofun⟩
  | load bytes => exact Memory.wf_writeBytes hs (inRange_program bytes)

/-! ### Stored bytes (42_index_memory.md R165; 20_memory.md R65) -/

/-- LD [I], Vx in range stores each register up to X at its own distance from `I` (42_index_memory.md R165). -/
theorem readByte_of_exec_storeRegs {x j : Nibble} {s t : State} (hr : s.i.toNat + x.toNat ≤ 4095)
    (h : exec (.storeRegs x) s = .next t) (hj : j.toNat ≤ x.toNat) : t.readByte (s.i.toNat + j.toNat) = s.readV j := by
  have hin : inRange s.i.toNat (regsThrough s x).length := inRange_iff.2 (.inr (by rw [regsThrough_length]; omega))
  simp only [exec, execStoreRegs, State.store_of_inRange s hin] at h
  cases h
  rw [advanceIndex_readByte, State.readByte, Memory.read_writeBytes, if_pos (by rw [regsThrough_length]; omega), Nat.add_sub_cancel_left]
  exact regsThrough_getD s x j hj

/-- Settles O55: the fetch is in range because its second byte was stored, and it reads the two registers those bytes came from. -/
theorem storedWordIsFetched : Obligations.StoredWordIsFetched := by
  intro x j k s t a hr h hk hkx ha
  have hhi : t.readByte a.toNat = s.readV j := by rw [ha, readByte_of_exec_storeRegs hr h (by omega)]
  have hlo : t.readByte (a.toNat + 1) = s.readV k := by rw [ha, Nat.add_assoc, ← hk, readByte_of_exec_storeRegs hr h hkx]
  refine State.fetch_eq_some.2 ⟨?_, ?_⟩
  · rw [State.setPc_pc]
    omega
  · rw [State.setPc_pc, State.setPc_readByte, State.setPc_readByte, hhi, hlo, wordOfBytes]

/-! ### The default font (20_memory.md R53) -/

/-- Settles O60: memory lists no cell after reset, so a glyph reads the default font, which is closed data. -/
theorem defaultFontIsListedTable : Obligations.DefaultFontIsListedTable := by
  unfold Obligations.DefaultFontIsListedTable
  decide

end Sys2Proof.Machine
end

section
/-! SUPPORT. The decoder inverts the encoder (30_encoding.md R85, R86): an instruction decodes from its own word, and a word that decodes
is put together again from the opcode that selected its arm and the fields that arm read. -/

namespace Sys2Proof

/-- Every instruction decodes from its own word. -/
theorem decode_encode (i : Instr) : decode (encode i) = .ok i := by
  cases i with
  | cls | ret => decide
  | jp | call | ldI | jpV0 | seImm | sneImm | ldImm | addImm | rnd | seReg | sneReg | drw => simp [encode, decode]
  | ldReg | orReg | andReg | xorReg | addReg | subReg | shr | subnReg | shl => simp [encode, decode, decodeOp8]
  | skp | sknp => simp [encode, decode, decodeOpE]
  | ldVxDt | ldVxK | ldDtVx | ldStVx | addI | ldF | ldB | storeRegs | loadRegs => simp [encode, decode, decodeOpF]

/-! A word is put together again from the fields its format reads and the opcode the dispatch selected. -/

theorem addr_of_opField {w : Word} {o : Nibble} (ho : opField w = o) : o ++ nnnField w = w := ho ▸ word_eq_addr w

theorem imm_of_opField {w : Word} {o : Nibble} (ho : opField w = o) : o ++ xField w ++ nnField w = w := ho ▸ word_eq_imm w

theorem regs_of_opField {w : Word} {o : Nibble} (ho : opField w = o) : o ++ xField w ++ yField w ++ nField w = w :=
  ho ▸ word_eq_regs w

theorem regs_of_opField_nField {w : Word} {o n : Nibble} (ho : opField w = o) (hn : nField w = n) :
    o ++ xField w ++ yField w ++ n = w := hn ▸ regs_of_opField ho

theorem imm_of_opField_nnField {w : Word} {o : Nibble} {nn : Byte} (ho : opField w = o) (hnn : nnField w = nn) :
    o ++ xField w ++ nn = w := hnn ▸ imm_of_opField ho

theorem encode_of_decodeOp0 {w : Word} {i : Instr} (h : decodeOp0 w = .ok i) : encode i = w := by
  unfold decodeOp0 at h
  split at h
  · cases h; exact Eq.symm ‹_›
  · split at h <;> cases h; exact Eq.symm ‹_›

theorem encode_of_decodeOp8 {x y n : Nibble} {i : Instr} (h : decodeOp8 x y n = .ok i) :
    encode i = 0x8#4 ++ x ++ y ++ n := by
  unfold decodeOp8 at h
  split at h <;> cases h <;> rfl

theorem encode_of_decodeOpE {x : Nibble} {nn : Byte} {i : Instr} (h : decodeOpE x nn = .ok i) :
    encode i = 0xE#4 ++ x ++ nn := by
  unfold decodeOpE at h
  split at h <;> cases h <;> rfl

theorem encode_of_decodeOpF {x : Nibble} {nn : Byte} {i : Instr} (h : decodeOpF x nn = .ok i) :
    encode i = 0xF#4 ++ x ++ nn := by
  unfold decodeOpF at h
  split at h <;> cases h <;> rfl

/-- The last arm of the dispatch on OP is OP = 0xF. -/
theorem eq_F_of_not_mem : ∀ o : Nibble, o ∉ [0x0, 0x1, 0x2, 0x3, 0x4, 0x5, 0x6, 0x7, 0x8, 0x9, 0xA, 0xB, 0xC, 0xD, 0xE] → o = 0xF := by
  decide

/-- A word that decodes is the encoding of what it decodes to. The arms of the dispatch are grouped by the format they read. -/
theorem encode_of_decode {w : Word} {i : Instr} (h : decode w = .ok i) : encode i = w := by
  unfold decode at h
  split at h
  case h_1 => exact encode_of_decodeOp0 h
  case h_2 ho | h_3 ho | h_11 ho | h_12 ho => cases h; exact addr_of_opField ho
  case h_4 ho | h_5 ho | h_7 ho | h_8 ho | h_13 ho => cases h; exact imm_of_opField ho
  case h_6 ho | h_10 ho =>
    split at h <;> cases h
    exact regs_of_opField_nField ho ‹_›
  case h_9 ho => exact (encode_of_decodeOp8 h).trans (regs_of_opField ho)
  case h_14 ho => cases h; exact regs_of_opField ho
  case h_15 ho => exact (encode_of_decodeOpE h).trans (imm_of_opField ho)
  case h_16 =>
    have ho : opField w = 0xF := eq_F_of_not_mem _ (by simp_all)
    exact (encode_of_decodeOpF h).trans (imm_of_opField ho)

/-- Settles O36: one direction is the round trip of an instruction, the other that of a word. -/
theorem decodeInvertsEncode : Obligations.DecodeInvertsEncode :=
  fun _ i => ⟨encode_of_decode, fun h => h ▸ decode_encode i⟩

end Sys2Proof
end

section
/-! SUPPORT. The opcode map against the decoder (30_encoding.md R85, R87): the words with the fixed bits of a row are the encodings of one
instruction, and every instruction has its row. -/

namespace Sys2Proof

open Laws.OpcodeBits

/-- Every instruction has a row of the map, and its word has the fixed bits of that row. -/
theorem exists_row_of_instr : ∀ i : Instr, Statement i
  | .cls => cls
  | .ret => ret
  | .jp nnn => jp nnn
  | .call nnn => call nnn
  | .seImm x nn => seImm x nn
  | .sneImm x nn => sneImm x nn
  | .seReg x y => seReg x y
  | .sneReg x y => sneReg x y
  | .ldImm x nn => ldImm x nn
  | .addImm x nn => addImm x nn
  | .ldReg x y => ldReg x y
  | .orReg x y => orReg x y
  | .andReg x y => andReg x y
  | .xorReg x y => xorReg x y
  | .addReg x y => addReg x y
  | .subReg x y => subReg x y
  | .shr x y => shr x y
  | .subnReg x y => subnReg x y
  | .shl x y => shl x y
  | .ldI nnn => ldI nnn
  | .jpV0 nnn => jpV0 nnn
  | .rnd x nn => rnd x nn
  | .drw x y n => drw x y n
  | .skp x => skp x
  | .sknp x => sknp x
  | .ldVxDt x => ldVxDt x
  | .ldVxK x => ldVxK x
  | .ldDtVx x => ldDtVx x
  | .ldStVx x => ldStVx x
  | .addI x => addI x
  | .ldF x => ldF x
  | .ldB x => ldB x
  | .storeRegs x => storeRegs x
  | .loadRegs x => loadRegs x

/-- The rows have different mnemonics. -/
theorem eq_of_mnemonic_eq {r r' : OpcodeRow} (hr : r ∈ opcodeMap) (hr' : r' ∈ opcodeMap) (h : r.mnemonic = r'.mnemonic) : r = r' :=
  List.inj_on_of_nodup_map (f := OpcodeRow.mnemonic) (by decide) hr hr' h

/-- A word that decodes has the fixed bits of a row with the mnemonic of what it decodes to. -/
theorem exists_row_of_decode {w : Word} {i : Instr} (h : decode w = .ok i) :
    ∃ r ∈ opcodeMap, r.mnemonic = i.mnemonic ∧ w &&& r.mask = r.value := by
  obtain rfl := encode_of_decode h
  exact exists_row_of_instr i

/-- The words with the fixed bits of a row are encodings of instructions with the row's mnemonic. -/
def OpcodeRow.Covered (r : OpcodeRow) : Prop :=
  ∀ w : Word, w &&& r.mask = r.value → ∃ i, encode i = w ∧ i.mnemonic = r.mnemonic

/-! One rule per mask: it is enough to name the instruction when the fields that the mask keeps have the row's values. -/

theorem covered_op {m : String} (o : Nibble) (h : ∀ w : Word, opField w = o → ∃ i, encode i = w ∧ i.mnemonic = m) :
    OpcodeRow.Covered ⟨m, 0xF000, o ++ 0x000#12⟩ := by
  intro w hw
  rw [← word_eq_addr w, op_of_addr] at hw
  exact h w (by simpa using congrArg opField hw)

theorem covered_op_n {m : String} (o n : Nibble)
    (h : ∀ w : Word, opField w = o → nField w = n → ∃ i, encode i = w ∧ i.mnemonic = m) :
    OpcodeRow.Covered ⟨m, 0xF00F, o ++ 0x0#4 ++ 0x0#4 ++ n⟩ := by
  intro w hw
  rw [← word_eq_regs w, op_n_of_regs] at hw
  exact h w (by simpa using congrArg opField hw) (by simpa using congrArg nField hw)

theorem covered_op_nn {m : String} (o : Nibble) (nn : Byte)
    (h : ∀ w : Word, opField w = o → nnField w = nn → ∃ i, encode i = w ∧ i.mnemonic = m) :
    OpcodeRow.Covered ⟨m, 0xF0FF, o ++ 0x0#4 ++ nn⟩ := by
  intro w hw
  rw [← word_eq_imm w, op_nn_of_imm] at hw
  exact h w (by simpa using congrArg opField hw) (by simpa using congrArg nnField hw)

theorem covered_word {m : String} (i : Instr) (h : i.mnemonic = m) : OpcodeRow.Covered ⟨m, 0xFFFF, encode i⟩ :=
  fun w hw => ⟨i, hw.symm.trans (BitVec.and_allOnes (x := w)), h⟩

theorem covered_rowsZero : ∀ r ∈ opcodeRowsZero, r.Covered := by
  simp only [opcodeRowsZero, List.forall_mem_cons]
  exact ⟨covered_word .cls rfl,
    covered_word .ret rfl,
    nofun⟩

theorem covered_rowsFlow : ∀ r ∈ opcodeRowsFlow, r.Covered := by
  simp only [opcodeRowsFlow, List.forall_mem_cons]
  exact ⟨covered_op 0x1 fun _ ho => ⟨.jp _, addr_of_opField ho, rfl⟩,
    covered_op 0x2 fun _ ho => ⟨.call _, addr_of_opField ho, rfl⟩,
    covered_op 0x3 fun _ ho => ⟨.seImm _ _, imm_of_opField ho, rfl⟩,
    covered_op 0x4 fun _ ho => ⟨.sneImm _ _, imm_of_opField ho, rfl⟩,
    covered_op_n 0x5 0x0 fun _ ho hn => ⟨.seReg _ _, regs_of_opField_nField ho hn, rfl⟩,
    covered_op_n 0x9 0x0 fun _ ho hn => ⟨.sneReg _ _, regs_of_opField_nField ho hn, rfl⟩,
    nofun⟩

theorem covered_rowsAlu : ∀ r ∈ opcodeRowsAlu, r.Covered := by
  simp only [opcodeRowsAlu, List.forall_mem_cons]
  exact ⟨covered_op 0x6 fun _ ho => ⟨.ldImm _ _, imm_of_opField ho, rfl⟩,
    covered_op 0x7 fun _ ho => ⟨.addImm _ _, imm_of_opField ho, rfl⟩,
    covered_op_n 0x8 0x0 fun _ ho hn => ⟨.ldReg _ _, regs_of_opField_nField ho hn, rfl⟩,
    covered_op_n 0x8 0x1 fun _ ho hn => ⟨.orReg _ _, regs_of_opField_nField ho hn, rfl⟩,
    covered_op_n 0x8 0x2 fun _ ho hn => ⟨.andReg _ _, regs_of_opField_nField ho hn, rfl⟩,
    covered_op_n 0x8 0x3 fun _ ho hn => ⟨.xorReg _ _, regs_of_opField_nField ho hn, rfl⟩,
    covered_op_n 0x8 0x4 fun _ ho hn => ⟨.addReg _ _, regs_of_opField_nField ho hn, rfl⟩,
    covered_op_n 0x8 0x5 fun _ ho hn => ⟨.subReg _ _, regs_of_opField_nField ho hn, rfl⟩,
    covered_op_n 0x8 0x6 fun _ ho hn => ⟨.shr _ _, regs_of_opField_nField ho hn, rfl⟩,
    covered_op_n 0x8 0x7 fun _ ho hn => ⟨.subnReg _ _, regs_of_opField_nField ho hn, rfl⟩,
    covered_op_n 0x8 0xE fun _ ho hn => ⟨.shl _ _, regs_of_opField_nField ho hn, rfl⟩,
    nofun⟩

theorem covered_rowsSingle : ∀ r ∈ opcodeRowsSingle, r.Covered := by
  simp only [opcodeRowsSingle, List.forall_mem_cons]
  exact ⟨covered_op 0xA fun _ ho => ⟨.ldI _, addr_of_opField ho, rfl⟩,
    covered_op 0xB fun _ ho => ⟨.jpV0 _, addr_of_opField ho, rfl⟩,
    covered_op 0xC fun _ ho => ⟨.rnd _ _, imm_of_opField ho, rfl⟩,
    covered_op 0xD fun _ ho => ⟨.drw _ _ _, regs_of_opField ho, rfl⟩,
    nofun⟩

theorem covered_rowsKey : ∀ r ∈ opcodeRowsKey, r.Covered := by
  simp only [opcodeRowsKey, List.forall_mem_cons]
  exact ⟨covered_op_nn 0xE 0x9E fun _ ho hnn => ⟨.skp _, imm_of_opField_nnField ho hnn, rfl⟩,
    covered_op_nn 0xE 0xA1 fun _ ho hnn => ⟨.sknp _, imm_of_opField_nnField ho hnn, rfl⟩,
    nofun⟩

theorem covered_rowsMisc : ∀ r ∈ opcodeRowsMisc, r.Covered := by
  simp only [opcodeRowsMisc, List.forall_mem_cons]
  exact ⟨covered_op_nn 0xF 0x07 fun _ ho hnn => ⟨.ldVxDt _, imm_of_opField_nnField ho hnn, rfl⟩,
    covered_op_nn 0xF 0x0A fun _ ho hnn => ⟨.ldVxK _, imm_of_opField_nnField ho hnn, rfl⟩,
    covered_op_nn 0xF 0x15 fun _ ho hnn => ⟨.ldDtVx _, imm_of_opField_nnField ho hnn, rfl⟩,
    covered_op_nn 0xF 0x18 fun _ ho hnn => ⟨.ldStVx _, imm_of_opField_nnField ho hnn, rfl⟩,
    covered_op_nn 0xF 0x1E fun _ ho hnn => ⟨.addI _, imm_of_opField_nnField ho hnn, rfl⟩,
    covered_op_nn 0xF 0x29 fun _ ho hnn => ⟨.ldF _, imm_of_opField_nnField ho hnn, rfl⟩,
    covered_op_nn 0xF 0x33 fun _ ho hnn => ⟨.ldB _, imm_of_opField_nnField ho hnn, rfl⟩,
    covered_op_nn 0xF 0x55 fun _ ho hnn => ⟨.storeRegs _, imm_of_opField_nnField ho hnn, rfl⟩,
    covered_op_nn 0xF 0x65 fun _ ho hnn => ⟨.loadRegs _, imm_of_opField_nnField ho hnn, rfl⟩,
    nofun⟩

theorem covered_of_mem_opcodeMap : ∀ r ∈ opcodeMap, r.Covered := by
  simp only [opcodeMap, List.forall_mem_append]
  exact ⟨⟨⟨⟨⟨covered_rowsZero, covered_rowsFlow⟩, covered_rowsAlu⟩, covered_rowsSingle⟩, covered_rowsKey⟩, covered_rowsMisc⟩

/-- Settles O37: a row's words are encodings, which decode; a word that decodes matches its own row, and no other has that mnemonic. -/
theorem decodeFollowsOpcodeMap : Obligations.DecodeFollowsOpcodeMap := by
  intro w r hr
  constructor
  · intro hw
    obtain ⟨i, rfl, hm⟩ := covered_of_mem_opcodeMap r hr w hw
    exact ⟨i, decode_encode i, hm⟩
  · rintro ⟨i, hd, hm⟩
    obtain ⟨r', hr', hm', hw⟩ := exists_row_of_decode hd
    obtain rfl := eq_of_mnemonic_eq hr hr' (hm.symm.trans hm'.symm)
    exact hw

end Sys2Proof

namespace Sys2Proof.Machine

theorem onlyChanges_nextInput {s : State} : OnlyChanges [.inputs] s s.nextInput := by
  intro p hp; cases p <;> simp [Part.same, State.readV, State.readByte] at hp ⊢

/-- Settles O38: a word that matches no row does not decode, so the cycle only latches the fault and consumes its inputs. -/
theorem unmatchedWordIsIllegal : Obligations.UnmatchedWordIsIllegal := by
  intro s hrun hpc hno
  cases hd : decode (wordAtPc s) with
  | ok i =>
    obtain ⟨r, hr, -, hw⟩ := exists_row_of_decode hd
    exact absurd hw (hno r hr)
  | error e =>
    have hfetch : s.fetch = some (wordAtPc s) := State.fetch_eq_some.2 ⟨hpc, rfl⟩
    exact ⟨_, step_of_decode_error hrun hfetch hd, rfl, (onlyChanges_nextInput.trans onlyChanges_takeFault).mono (by decide)⟩

/-- Settles O39: seven round trips of an instruction, and a word of the illegal class 0x0NNN. -/
theorem sampleWordsDecode : Obligations.SampleWordsDecode :=
  ⟨decode_encode (.ldImm 0xA 0x02), decode_encode (.ldImm 0xB 0x03), decode_encode (.addReg 0xA 0xB), decode_encode (.jp 0x234),
    decode_encode (.ldB 5), decode_encode (.drw 2 3 5), decode_encode (.sknp 1), rfl⟩

end Sys2Proof.Machine
end

section
/-! SUPPORT. The control-flow instructions (40_control_flow.md): what RET and CALL answer in terms of the stack operations, where a jump and
a skip leave `PC`, and the stack as the list of return addresses, which a sequence of calls extends and a sequence of returns reads off. -/

namespace Sys2Proof.Machine

/-- An operation on the stack and a jump after it: what RET and CALL are made of. -/
theorem onlyChanges_setPc_of_stack {s t : State} {a : Word} (h : OnlyChanges [.stack] s t) :
    OnlyChanges [.pc, .stack] s (t.setPc a) := (h.trans onlyChanges_setPc).mono (by decide)

/-- Raising a fault latches it and changes nothing else (60_exceptions.md R216). -/
theorem raises_of_exec_eq_raise {i : Instr} {s : State} {c : FaultCause} (h : exec i s = s.raise c) : Raises i s c :=
  ⟨_, h, rfl, onlyChanges_takeFault⟩

/-! ### RET and CALL (40_control_flow.md R111, R113) -/

theorem exec_ret_of_pop_eq_none {s : State} (h : s.pop = none) : exec .ret s = s.raise .stackUnderflow := by
  simp only [exec, execRet, h]

theorem exec_ret_of_pop_eq_some {s t : State} {a : Word} (h : s.pop = some (a, t)) : exec .ret s = .next (t.setPc a) := by
  simp only [exec, execRet, h]

theorem exec_call_of_push_eq_none {nnn : Addr12} {s : State} (h : s.push s.pc = none) :
    exec (.call nnn) s = s.raise .stackOverflow := by
  simp only [exec, execCall, h]

theorem exec_call_of_push_eq_some {nnn : Addr12} {s t : State} (h : s.push s.pc = some t) :
    exec (.call nnn) s = .next (t.setPc (addrOperand nnn)) := by
  simp only [exec, execCall, h]

theorem addrOperand_toNat (nnn : Addr12) : (addrOperand nnn).toNat = nnn.toNat := BitVec.toNat_setWidth_of_le (by decide)

/-- Settles O1: an empty stack is the one case in which the pop fails. -/
theorem retPopsReturnAddress : Obligations.RetPopsReturnAddress := by
  refine ⟨decode_encode .ret, fun s => ⟨fun hempty => ?_, fun j hj => ?_⟩⟩
  · exact raises_of_exec_eq_raise (exec_ret_of_pop_eq_none (State.pop_eq_none.2 hempty))
  · have hpop := State.pop_of_succ j hj
    exact ⟨_, exec_ret_of_pop_eq_some hpop, rfl, rfl, rfl, onlyChanges_setPc_of_stack (onlyChanges_of_pop hpop)⟩

/-- Settles O3: a full stack is the one case in which the push fails, and the push writes the slot at `SP` alone. -/
theorem callPushesAndJumps : Obligations.CallPushesAndJumps := by
  refine fun nnn s => ⟨decode_encode (.call nnn), fun hfull => ?_, fun j hj => ?_⟩
  · exact raises_of_exec_eq_raise (exec_call_of_push_eq_none (State.push_eq_none.2 hfull))
  · have hlt : s.sp.val < 16 := hj ▸ j.isLt
    have hpush := State.push_of_lt s.pc hlt
    have hslot : ∀ k : Fin 16, (s.stack.set s.sp.val s.pc hlt)[k] = if k = j then s.pc else s.stack[k] := fun k => by
      simp [Vector.getElem_set, hj, Fin.ext_iff, eq_comm]
    exact ⟨_, exec_call_of_push_eq_some hpush, addrOperand_toNat nnn, congrArg (· + 1) hj, (hslot j).trans (if_pos rfl),
      fun k hk => (hslot k).trans (if_neg hk), onlyChanges_setPc_of_stack (onlyChanges_of_push hpush)⟩

/-! ### The return addresses in use (10_state.md R27) -/

/-- The stack slots in use, the last one pushed first. -/
def State.returnAddrs (s : State) : List Word := (s.stack.toList.take s.sp.val).reverse

@[simp] theorem State.setPc_returnAddrs (s : State) (a : Word) : (s.setPc a).returnAddrs = s.returnAddrs := rfl

theorem State.length_returnAddrs (s : State) : s.returnAddrs.length = s.sp.val := by
  have hsp := s.sp.isLt
  rw [State.returnAddrs, List.length_reverse, List.length_take, Vector.length_toList]
  omega

theorem State.returnAddrs_of_sp_eq_succ {s : State} (j : Fin 16) (h : s.sp.val = j.val + 1) :
    s.returnAddrs = s.stack[j] :: (s.stack.toList.take j.val).reverse := by
  have hj : j.val < s.stack.toList.length := by rw [Vector.length_toList]; exact j.isLt
  rw [State.returnAddrs, h, List.take_succ_eq_append_getElem hj, List.reverse_concat, Vector.getElem_toList]
  rfl

theorem State.returnAddrs_of_pop {s t : State} {a : Word} (h : s.pop = some (a, t)) : s.returnAddrs = a :: t.returnAddrs := by
  obtain ⟨-, hp⟩ | ⟨j, hj, hp⟩ := pop_cases s <;> cases hp.symm.trans h
  exact State.returnAddrs_of_sp_eq_succ j hj

theorem State.returnAddrs_of_push {s t : State} {a : Word} (h : s.push a = some t) : t.returnAddrs = a :: s.returnAddrs := by
  obtain ⟨-, hp⟩ | ⟨hlt, hp⟩ := push_cases s a <;> cases hp.symm.trans h
  rw [State.returnAddrs_of_sp_eq_succ ⟨s.sp.val, hlt⟩ rfl]
  simp [State.returnAddrs, Vector.toList_set, List.take_set_of_le]

theorem State.exists_push_eq_some {s : State} (a : Word) (hroom : s.returnAddrs.length < 16) : ∃ t, s.push a = some t :=
  ⟨_, State.push_of_lt a (State.length_returnAddrs s ▸ hroom)⟩

/-! ### Sequences of calls and returns (40_control_flow.md R113) -/

theorem running_setPc_of_stack {s t : State} {a : Word} (hrun : Running s) (h : OnlyChanges [.stack] s t) :
    Running (t.setPc a) := by
  have hfault : t.fault = s.fault := h .fault (by decide)
  rw [Running, State.setPc_fault, hfault]
  exact hrun

theorem callAll_cons_of_push {s t : State} {next : Word} {target : Addr12} {cs : List (Word × Addr12)} (hrun : Running s)
    (h : (s.setPc next).push next = some t) :
    Running (t.setPc (addrOperand target)) ∧ callAll ((next, target) :: cs) s = callAll cs (t.setPc (addrOperand target)) := by
  have hrun' : Running (t.setPc (addrOperand target)) :=
    running_setPc_of_stack (s := s.setPc next) hrun (onlyChanges_of_push h)
  refine ⟨hrun', ?_⟩
  simp only [callAll, exec_call_of_push_eq_some (s := s.setPc next) h]
  exact if_neg (Bool.eq_false_iff.1 hrun')

theorem returnAll_succ_of_pop {s t : State} {a : Word} (n : Nat) (hrun : Running s) (h : s.pop = some (a, t)) :
    Running (t.setPc a) ∧ returnAll (n + 1) s = (returnAll n (t.setPc a)).map (a :: ·) := by
  have hrun' : Running (t.setPc a) := running_setPc_of_stack hrun (onlyChanges_of_pop h)
  refine ⟨hrun', ?_⟩
  simp only [returnAll, exec_ret_of_pop_eq_some h, State.setPc_pc]
  exact if_neg (Bool.eq_false_iff.1 hrun')

/-- Calls that fit the stack complete, and put the addresses after them on it. -/
theorem exists_callAll_eq_some (cs : List (Word × Addr12)) (s : State) (hrun : Running s)
    (hroom : s.returnAddrs.length + cs.length ≤ 16) :
    ∃ t, callAll cs s = some t ∧ Running t ∧ t.returnAddrs = (cs.map Prod.fst).reverse ++ s.returnAddrs := by
  induction cs generalizing s with
  | nil => exact ⟨s, rfl, hrun, rfl⟩
  | cons c cs ih =>
    obtain ⟨next, target⟩ := c
    rw [List.length_cons] at hroom
    obtain ⟨s', hpush⟩ := State.exists_push_eq_some (s := s.setPc next) next (by rw [State.setPc_returnAddrs]; omega)
    have haddrs := State.returnAddrs_of_push hpush
    obtain ⟨hrun', hcall⟩ := callAll_cons_of_push (target := target) (cs := cs) hrun hpush
    obtain ⟨t, ht, htrun, htaddrs⟩ := ih _ hrun' (by simp [haddrs]; omega)
    exact ⟨t, hcall.trans ht, htrun, by simp [htaddrs, haddrs]⟩

/-- Returns go to the return addresses on the stack, the last one pushed first. -/
theorem returnAll_of_returnAddrs {addrs rest : List Word} {s : State} (hrun : Running s) (h : s.returnAddrs = addrs ++ rest) :
    returnAll addrs.length s = some addrs := by
  induction addrs generalizing s with
  | nil => rfl
  | cons a addrs ih =>
    obtain ⟨hsp, -⟩ | ⟨j, -, hpop⟩ := pop_cases s
    · have hlen := State.length_returnAddrs s
      simp [h, hsp] at hlen
    · obtain ⟨rfl, htl⟩ := List.cons.inj ((State.returnAddrs_of_pop hpop).symm.trans h)
      obtain ⟨hrun', hret⟩ := returnAll_succ_of_pop addrs.length hrun hpop
      rw [List.length_cons, hret, ih hrun' htl]
      rfl

/-- Settles O53: the calls put the addresses after them on top of the stack, last call first, and the returns read them off. -/
theorem callsAndReturnsNest : Obligations.CallsAndReturnsNest := by
  intro cs s hrun hroom
  rw [← State.length_returnAddrs] at hroom
  obtain ⟨t, ht, htrun, haddrs⟩ := exists_callAll_eq_some cs s hrun hroom
  have hret := returnAll_of_returnAddrs htrun haddrs
  rw [List.length_reverse, List.length_map] at hret
  exact ⟨t, ht, hret⟩

/-! ### Jumps (40_control_flow.md R112, R118) -/

theorem wideOperand_toNat (b : Byte) : (wideOperand b).toNat = b.toNat := BitVec.toNat_setWidth_of_le (by decide)

/-- The sum of a 12-bit address and a register is exact in 16 bits (40_control_flow.md R118). -/
theorem addrOperand_add_wideOperand_toNat (nnn : Addr12) (b : Byte) :
    (addrOperand nnn + wideOperand b).toNat = nnn.toNat + b.toNat := by
  have hn := nnn.isLt
  have hb := b.isLt
  rw [BitVec.toNat_add, addrOperand_toNat, wideOperand_toNat]
  omega

/-- Settles O2: the zero-extension keeps the number. -/
theorem jpSetsPc : Obligations.JpSetsPc :=
  fun nnn _ => ⟨decode_encode (.jp nnn), _, rfl, addrOperand_toNat nnn, onlyChanges_setPc⟩

/-- Settles O8: the sum does not wrap. -/
theorem jpV0AddsOffset : Obligations.JpV0AddsOffset :=
  fun nnn _ => ⟨decode_encode (.jpV0 nnn), _, rfl, addrOperand_add_wideOperand_toNat nnn _, onlyChanges_setPc⟩

/-! ### Skips (40_control_flow.md R114 to R117) -/

/-- A skip changes `PC` alone, by a further 2 or not at all: `p` and `q` are the two outcomes of its condition. -/
theorem skipIf_pc_cases {s : State} {c : Bool} {p q : Prop} (hp : p → c = true) (hq : q → c = false) :
    OnlyChanges [.pc] s (s.skipIf c) ∧ (p → (s.skipIf c).pc.toNat = (s.pc.toNat + 2) % 65536) ∧ (q → (s.skipIf c).pc = s.pc) := by
  refine ⟨onlyChanges_skipIf, fun h => ?_, fun h => ?_⟩
  · rw [State.skipIf_pc, hp h, if_pos rfl, BitVec.toNat_add]
    rfl
  · rw [State.skipIf_pc, hq h]
    rfl

/-- Settles O4: the condition of the skip is equality. -/
theorem seImmSkipsWhenEqual : Obligations.SeImmSkipsWhenEqual :=
  fun x nn _ => ⟨decode_encode (.seImm x nn), _, rfl, skipIf_pc_cases beq_iff_eq.2 beq_eq_false_iff_ne.2⟩

/-- Settles O5: the condition of the skip is difference. -/
theorem sneImmSkipsWhenDifferent : Obligations.SneImmSkipsWhenDifferent :=
  fun x nn _ => ⟨decode_encode (.sneImm x nn), _, rfl, skipIf_pc_cases bne_iff_ne.2 bne_eq_false_iff_eq.2⟩

theorem decode_op5_of_ne_zero (x y : Nibble) {n : Nibble} (hn : n ≠ 0) : decode (0x5#4 ++ x ++ y ++ n) = .error .illegalOp5 := by
  simpa [decode] using hn

theorem decode_op9_of_ne_zero (x y : Nibble) {n : Nibble} (hn : n ≠ 0) : decode (0x9#4 ++ x ++ y ++ n) = .error .illegalOp9 := by
  simpa [decode] using hn

/-- Settles O6: the decoder checks the trailing nibble, and the condition of the skip is equality. -/
theorem seRegSkipsWhenEqual : Obligations.SeRegSkipsWhenEqual :=
  fun x y _ => ⟨decode_encode (.seReg x y), fun _ => decode_op5_of_ne_zero x y, _, rfl,
    skipIf_pc_cases beq_iff_eq.2 beq_eq_false_iff_ne.2⟩

/-- Settles O7: the decoder checks the trailing nibble, and the condition of the skip is difference. -/
theorem sneRegSkipsWhenDifferent : Obligations.SneRegSkipsWhenDifferent :=
  fun x y _ => ⟨decode_encode (.sneReg x y), fun _ => decode_op9_of_ne_zero x y, _, rfl,
    skipIf_pc_cases bne_iff_ne.2 bne_eq_false_iff_eq.2⟩

end Sys2Proof.Machine
end

section
/-! SUPPORT. The register, arithmetic, logic, shift and random instructions (41_alu.md): what a register holds after the two ways an
instruction writes one, a result alone or a result and then the flag, and the results and flags as numbers. -/

namespace Sys2Proof.Machine

/-! ### The two ways to write a register (10_state.md R20, R21; 30_encoding.md R84) -/

theorem State.writeV_readV_self (s : State) (x : Nibble) (b : Byte) : (s.writeV x b).readV x = b := by
  rw [State.writeV_readV, if_pos rfl]

theorem keepsRegs_writeV {s : State} {x : Nibble} {b : Byte} : KeepsRegs [x] s (s.writeV x b) := fun r hr => by
  rw [State.writeV_readV, if_neg (Ne.symm (List.ne_of_not_mem_cons hr))]

theorem writeResultAndFlag_readV_flag (s : State) (x : Nibble) (b : Byte) (c : Bool) :
    (writeResultAndFlag s x b c).readV 15 = flagByte c :=
  (writeResultAndFlag_readV s x 15 b c).trans (if_pos rfl)

theorem writeResultAndFlag_readV_result (s : State) {x : Nibble} (b : Byte) (c : Bool) (hx : x ≠ 15) :
    (writeResultAndFlag s x b c).readV x = b :=
  (writeResultAndFlag_readV s x x b c).trans ((if_neg hx).trans (if_pos rfl))

theorem keepsRegs_writeResultAndFlag {s : State} {x : Nibble} {b : Byte} {c : Bool} :
    KeepsRegs [x, 15] s (writeResultAndFlag s x b c) := fun r hr => by
  obtain ⟨hx, hflag⟩ := List.ne_and_not_mem_of_not_mem_cons hr
  exact (writeResultAndFlag_readV s x r b c).trans ((if_neg (List.ne_of_not_mem_cons hflag)).trans (if_neg hx))

/-! ### A result alone (41_alu.md R131 to R136, R142) -/

/-- Settles O9: the immediate is written to the register. -/
theorem ldImmLoads : Obligations.LdImmLoads :=
  fun x nn s => ⟨decode_encode (.ldImm x nn), _, rfl, s.writeV_readV_self x nn, keepsRegs_writeV, onlyChanges_writeV⟩

/-- Settles O10: the addition of bytes is modulo 256, and no other register is written. -/
theorem addImmWrapsWithoutFlag : Obligations.AddImmWrapsWithoutFlag :=
  fun x nn s => ⟨decode_encode (.addImm x nn), _, rfl, by rw [State.writeV_readV_self, BitVec.toNat_add],
    keepsRegs_writeV, onlyChanges_writeV⟩

/-- Settles O11: the source register is written to the destination. -/
theorem ldRegCopies : Obligations.LdRegCopies :=
  fun x y s => ⟨decode_encode (.ldReg x y), _, rfl, s.writeV_readV_self x _, keepsRegs_writeV, onlyChanges_writeV⟩

/-- Settles O12: a bit of the disjunction of two bytes. -/
theorem orCombinesBits : Obligations.OrCombinesBits :=
  fun x y s => ⟨decode_encode (.orReg x y), _, rfl, fun k _ => by rw [State.writeV_readV_self, BitVec.getLsbD_or],
    keepsRegs_writeV, onlyChanges_writeV⟩

/-- Settles O13: a bit of the conjunction of two bytes. -/
theorem andCombinesBits : Obligations.AndCombinesBits :=
  fun x y s => ⟨decode_encode (.andReg x y), _, rfl, fun k _ => by rw [State.writeV_readV_self, BitVec.getLsbD_and],
    keepsRegs_writeV, onlyChanges_writeV⟩

/-- Settles O14: a bit of the exclusive disjunction of two bytes. -/
theorem xorCombinesBits : Obligations.XorCombinesBits :=
  fun x y s => ⟨decode_encode (.xorReg x y), _, rfl, fun k _ => by rw [State.writeV_readV_self, BitVec.getLsbD_xor],
    keepsRegs_writeV, onlyChanges_writeV⟩

/-- Settles O20: a bit of the conjunction of the cycle's random byte, which stays a variable, and the mask. -/
theorem rndMasksFreeByte : Obligations.RndMasksFreeByte :=
  fun x nn s => ⟨decode_encode (.rnd x nn), _, rfl, fun k _ => by rw [State.writeV_readV_self, BitVec.getLsbD_and],
    keepsRegs_writeV, onlyChanges_writeV⟩

/-! ### The results and flags as numbers (41_alu.md R137 to R141) -/

theorem flagByte_decide (p : Prop) [Decidable p] : flagByte (decide p) = if p then 1 else 0 := by
  simp only [flagByte, decide_eq_true_eq]

theorem flagByte_toNat (c : Bool) : (flagByte c).toNat = c.toNat := by
  cases c <;> rfl

theorem byte_sub_toNat (a b : Byte) : (a - b).toNat = (a.toNat + 256 - b.toNat) % 256 := by
  have hb := b.isLt
  rw [BitVec.toNat_sub]
  omega

theorem byte_shiftRight_one_toNat (a : Byte) : (a >>> 1).toNat = a.toNat / 2 := by
  rw [BitVec.toNat_ushiftRight, Nat.shiftRight_eq_div_pow, pow_one]

theorem byte_shiftLeft_one_toNat (a : Byte) : (a <<< 1).toNat = a.toNat * 2 % 256 := by
  rw [BitVec.toNat_shiftLeft, Nat.shiftLeft_eq, pow_one]

theorem lowBit_toNat (a : Byte) : (lowBit a).toNat = a.toNat % 2 := by
  rw [lowBit, BitVec.getLsbD, Nat.toNat_testBit, pow_zero, Nat.div_one]

theorem highBit_toNat (a : Byte) : (highBit a).toNat = a.toNat / 128 := by
  have ha := a.isLt
  rw [highBit, BitVec.getLsbD, Nat.toNat_testBit]
  omega

/-! ### A result and then the flag (41_alu.md R137 to R141) -/

/-- Settles O15: the carry is latched from the old values and written last. -/
theorem addRegSetsCarry : Obligations.AddRegSetsCarry := by
  refine fun x y s => ⟨decode_encode (.addReg x y), _, rfl, fun hx => ?_, ?_, keepsRegs_writeResultAndFlag,
    onlyChanges_writeResultAndFlag⟩
  · rw [writeResultAndFlag_readV_result _ _ _ hx, BitVec.toNat_add]
  · rw [writeResultAndFlag_readV_flag, carryOut, flagByte_decide]

/-- The result and the flag of the two subtracts, for a minuend `a` and a subtrahend `b` (41_alu.md R138, R140). -/
theorem writeResultAndFlag_sub_strictlyGreater (s : State) (x : Nibble) (a b : Byte) :
    (x ≠ 15 → ((writeResultAndFlag s x (a - b) (strictlyGreater a b)).readV x).toNat = (a.toNat + 256 - b.toNat) % 256) ∧
    (writeResultAndFlag s x (a - b) (strictlyGreater a b)).readV 15 = if a.toNat > b.toNat then 1 else 0 := by
  refine ⟨fun hx => ?_, ?_⟩
  · rw [writeResultAndFlag_readV_result _ _ _ hx, byte_sub_toNat]
  · rw [writeResultAndFlag_readV_flag, strictlyGreater, flagByte_decide]

/-- Settles O16: the minuend is the old `V[X]`. -/
theorem subRegSetsStrictFlag : Obligations.SubRegSetsStrictFlag := fun x y s => by
  obtain ⟨hresult, hflag⟩ := writeResultAndFlag_sub_strictlyGreater s x (s.readV x) (s.readV y)
  exact ⟨decode_encode (.subReg x y), _, rfl, hresult, hflag, keepsRegs_writeResultAndFlag, onlyChanges_writeResultAndFlag⟩

/-- Settles O18: the minuend is the old `V[Y]`. -/
theorem subnRegSetsStrictFlag : Obligations.SubnRegSetsStrictFlag := fun x y s => by
  obtain ⟨hresult, hflag⟩ := writeResultAndFlag_sub_strictlyGreater s x (s.readV y) (s.readV x)
  exact ⟨decode_encode (.subnReg x y), _, rfl, hresult, hflag, keepsRegs_writeResultAndFlag, onlyChanges_writeResultAndFlag⟩

/-- Settles O17: the source is the model's `shiftSource`, and the bit that drops is its remainder by 2. -/
theorem shrSetsDroppedBit : Obligations.ShrSetsDroppedBit := by
  rintro x y s _ rfl
  refine ⟨decode_encode (.shr x y), _, rfl, fun hx => ?_, ?_, keepsRegs_writeResultAndFlag, onlyChanges_writeResultAndFlag⟩
  · rw [writeResultAndFlag_readV_result _ _ _ hx, byte_shiftRight_one_toNat, shiftSource]
  · rw [writeResultAndFlag_readV_flag, flagByte_toNat, lowBit_toNat, shiftSource]

/-- Settles O19: as O17 with the bit at the other end, the quotient of the source by 128. -/
theorem shlSetsDroppedBit : Obligations.ShlSetsDroppedBit := by
  rintro x y s _ rfl
  refine ⟨decode_encode (.shl x y), _, rfl, fun hx => ?_, ?_, keepsRegs_writeResultAndFlag, onlyChanges_writeResultAndFlag⟩
  · rw [writeResultAndFlag_readV_result _ _ _ hx, byte_shiftLeft_one_toNat, shiftSource]
  · rw [writeResultAndFlag_readV_flag, flagByte_toNat, highBit_toNat, shiftSource]

end Sys2Proof.Machine
end

section
/-! SUPPORT. The index-register and memory instructions (42_index_memory.md): what each transfer answers in terms of the checked store and
load, the bytes a store leaves, and `I` and the decimal digits as numbers. -/

namespace Sys2Proof.Machine

/-! ### The index register (42_index_memory.md R161 to R163) -/

/-- A glyph address does not wrap: the last is 255 * 5 + 0x50 (42_index_memory.md R163). -/
theorem glyphAddress_toNat (b : Byte) : (glyphAddress b).toNat = b.toNat * 5 + 0x50 := by
  have hb := b.isLt
  rw [glyphAddress, Config.glyphBytes, Config.fontBase, BitVec.toNat_ofNat, Nat.mod_eq_of_lt (by omega)]

/-- Settles O21: the zero-extension keeps the number. -/
theorem ldISetsIndex : Obligations.LdISetsIndex :=
  fun nnn _ => ⟨decode_encode (.ldI nnn), _, rfl, addrOperand_toNat nnn, onlyChanges_setI⟩

/-- Settles O22: the addition of words is modulo 65536, and no register is written. -/
theorem addIWrapsWithoutFlag : Obligations.AddIWrapsWithoutFlag :=
  fun x _ => ⟨decode_encode (.addI x), _, rfl, by rw [State.setI_i, BitVec.toNat_add, wideOperand_toNat], onlyChanges_setI⟩

/-- Settles O23: the glyph address does not wrap. -/
theorem ldFAddressesGlyph : Obligations.LdFAddressesGlyph :=
  fun x s => ⟨decode_encode (.ldF x), _, rfl, glyphAddress_toNat (s.readV x), onlyChanges_setI⟩

/-- A bulk transfer that has kept `I` and the configuration so far advances `I` under `INDEX_INCREMENT` alone (42_index_memory.md R165,
R166). -/
theorem advanceIndex_i_cases {s t : State} (x : Nibble) (hi : t.i = s.i) (hcfg : t.cfg = s.cfg) :
    (s.cfg.indexIncrement = true → (advanceIndex t x).i.toNat = (s.i.toNat + x.toNat + 1) % 65536) ∧
    (s.cfg.indexIncrement = false → (advanceIndex t x).i = s.i) := by
  have hx : (x.setWidth 16).toNat = x.toNat := BitVec.toNat_setWidth_of_le (by decide)
  rw [advanceIndex, State.setI_i, hi, hcfg]
  refine ⟨fun h => ?_, fun h => if_neg (Bool.eq_false_iff.1 h)⟩
  rw [if_pos h, BitVec.toNat_add, BitVec.toNat_add, hx, Nat.mod_add_mod]
  rfl

/-! ### The bytes a store leaves and a load answers (20_memory.md R56, R57) -/

/-- The bounds check of a transfer by its last byte, the form the rules write it in (42_index_memory.md R164 to R166). -/
theorem inRange_succ_iff {a n : Nat} : inRange a (n + 1) ↔ a + n ≤ 4095 := by
  rw [inRange_iff]
  omega

theorem State.readByte_of_store {s t : State} {a : Nat} {bs : List Byte} (h : s.store a bs = some t) (k : Nat) :
    t.readByte k = if a ≤ k ∧ k < a + bs.length then bs.getD (k - a) 0 else s.readByte k := by
  obtain ⟨-, rfl⟩ := State.store_eq_some.1 h
  exact Memory.read_writeBytes _ bs s.mem a k

theorem State.readByte_add_of_store {s t : State} {a k : Nat} {bs : List Byte} (h : s.store a bs = some t) (hk : k < bs.length) :
    t.readByte (a + k) = bs.getD k 0 := by
  rw [State.readByte_of_store h, if_pos ⟨by omega, by omega⟩, Nat.add_sub_cancel_left]

theorem keepsMemOutside_of_store {s t : State} {a : Nat} {bs : List Byte} (h : s.store a bs = some t) :
    KeepsMemOutside a bs.length s t :=
  fun k hk => (State.readByte_of_store h k).trans (if_neg hk)

theorem State.getD_of_load {s : State} {a n k : Nat} {bs : List Byte} (h : s.load a n = some bs) (hk : k < n) :
    bs.getD k 0 = s.readByte (a + k) := by
  obtain ⟨-, rfl⟩ := State.load_eq_some.1 h
  exact Memory.readBytes_getD _ s.mem a n k hk

/-! ### LD B, Vx (42_index_memory.md R164) -/

theorem exec_ldB_of_store_eq_none {x : Nibble} {s : State} (h : s.store s.i.toNat (bcdDigits (s.readV x)) = none) :
    exec (.ldB x) s = s.raise .outOfRangeAccess := by
  simp only [exec, execLdB, h]

theorem exec_ldB_of_store_eq_some {x : Nibble} {s t : State} (h : s.store s.i.toNat (bcdDigits (s.readV x)) = some t) :
    exec (.ldB x) s = .next t := by
  simp only [exec, execLdB, h]

theorem inRange_bcdDigits_iff {b : Byte} {a : Nat} : inRange a (bcdDigits b).length ↔ a + 2 ≤ 4095 := inRange_succ_iff

/-- Each digit of a byte fits a byte. -/
theorem bcdDigits_getD_toNat (b : Byte) :
    ((bcdDigits b).getD 0 0).toNat = b.toNat / 100 ∧
    ((bcdDigits b).getD 1 0).toNat = b.toNat / 10 % 10 ∧
    ((bcdDigits b).getD 2 0).toNat = b.toNat % 10 := by
  have hb := b.isLt
  exact ⟨Nat.mod_eq_of_lt (by omega), Nat.mod_eq_of_lt (by omega), Nat.mod_eq_of_lt (by omega)⟩

/-- Settles O24: the store of the three digits fails exactly where the last one is out of range. -/
theorem ldBStoresDigits : Obligations.LdBStoresDigits := by
  refine fun x s => ⟨decode_encode (.ldB x), fun hout => ?_, fun hin => ?_⟩
  · exact raises_of_exec_eq_raise (exec_ldB_of_store_eq_none (State.store_eq_none.2 (inRange_bcdDigits_iff.not.2 (Nat.not_le.2 hout))))
  · obtain ⟨t, hstore⟩ : ∃ t, s.store s.i.toNat (bcdDigits (s.readV x)) = some t :=
      ⟨_, State.store_of_inRange s (inRange_bcdDigits_iff.2 hin)⟩
    have hbyte := fun k (hk : k < 3) => congrArg BitVec.toNat (State.readByte_add_of_store hstore hk)
    obtain ⟨hhundreds, htens, hones⟩ := bcdDigits_getD_toNat (s.readV x)
    exact ⟨_, exec_ldB_of_store_eq_some hstore, (hbyte 0 (by decide)).trans hhundreds, (hbyte 1 (by decide)).trans htens,
      (hbyte 2 (by decide)).trans hones, keepsMemOutside_of_store hstore, onlyChanges_of_store hstore⟩

/-! ### LD [I], Vx (42_index_memory.md R165) -/

theorem exec_storeRegs_of_store_eq_none {x : Nibble} {s : State} (h : s.store s.i.toNat (regsThrough s x) = none) :
    exec (.storeRegs x) s = s.raise .outOfRangeAccess := by
  simp only [exec, execStoreRegs, h]

theorem exec_storeRegs_of_store_eq_some {x : Nibble} {s t : State} (h : s.store s.i.toNat (regsThrough s x) = some t) :
    exec (.storeRegs x) s = .next (advanceIndex t x) := by
  simp only [exec, execStoreRegs, h]

theorem inRange_regsThrough_iff {s : State} {x : Nibble} {a : Nat} :
    inRange a (regsThrough s x).length ↔ a + x.toNat ≤ 4095 := by
  rw [regsThrough_length, inRange_succ_iff]

/-- Settles O25: the store of the registers fails exactly where the last one is out of range, and `I` is advanced after it. -/
theorem storeRegsStoresAll : Obligations.StoreRegsStoresAll := by
  refine fun x s => ⟨decode_encode (.storeRegs x), fun hout => ?_, fun hin => ?_⟩
  · exact raises_of_exec_eq_raise (exec_storeRegs_of_store_eq_none
      (State.store_eq_none.2 (inRange_regsThrough_iff.not.2 (Nat.not_le.2 hout))))
  · obtain ⟨t, hstore⟩ : ∃ t, s.store s.i.toNat (regsThrough s x) = some t :=
      ⟨_, State.store_of_inRange s (inRange_regsThrough_iff.2 hin)⟩
    have hexec := exec_storeRegs_of_store_eq_some hstore
    have hkept := keepsMemOutside_of_store hstore
    rw [regsThrough_length] at hkept
    have hframe := onlyChanges_of_store hstore
    obtain ⟨hinc, hnoinc⟩ := advanceIndex_i_cases x (hframe .i (by decide)) (hframe .cfg (by decide))
    exact ⟨_, hexec, fun k => readByte_of_exec_storeRegs hin hexec, hkept, hinc, hnoinc,
      hframe.trans onlyChanges_advanceIndex⟩

/-! ### LD Vx, [I] (42_index_memory.md R166) -/

theorem exec_loadRegs_of_load_eq_none {x : Nibble} {s : State} (h : s.load s.i.toNat (x.toNat + 1) = none) :
    exec (.loadRegs x) s = s.raise .outOfRangeAccess := by
  simp only [exec, execLoadRegs, h]

theorem exec_loadRegs_of_load_eq_some {x : Nibble} {s : State} {bs : List Byte} (h : s.load s.i.toNat (x.toNat + 1) = some bs) :
    exec (.loadRegs x) s = .next (advanceIndex (writeRegsThrough s x bs) x) := by
  simp only [exec, execLoadRegs, h]

/-- Settles O26: the load fails exactly where the last byte is out of range, and `I` is advanced after the registers are written. -/
theorem loadRegsLoadsAll : Obligations.LoadRegsLoadsAll := by
  refine fun x s => ⟨decode_encode (.loadRegs x), fun hout => ?_, fun hin => ?_⟩
  · exact raises_of_exec_eq_raise (exec_loadRegs_of_load_eq_none (State.load_eq_none.2 (inRange_succ_iff.not.2 (Nat.not_le.2 hout))))
  · obtain ⟨bs, hload⟩ : ∃ bs, s.load s.i.toNat (x.toNat + 1) = some bs := ⟨_, State.load_of_inRange s (inRange_succ_iff.2 hin)⟩
    obtain ⟨hinc, hnoinc⟩ := advanceIndex_i_cases x (writeRegsThrough_i s x bs) (writeRegsThrough_cfg s x bs)
    refine ⟨_, exec_loadRegs_of_load_eq_some hload, fun k hk => ?_, fun k hk => ?_, hinc, hnoinc,
      onlyChanges_writeRegsThrough.trans onlyChanges_advanceIndex⟩
    · rw [advanceIndex_readV, writeRegsThrough_readV, if_pos hk, State.getD_of_load hload (Nat.lt_succ_of_le hk)]
    · rw [advanceIndex_readV, writeRegsThrough_readV, if_neg (Nat.not_le.2 hk)]

end Sys2Proof.Machine
end

section
/-! SUPPORT. The display instructions (43_display.md): the two outcomes of DRW, and its drawing loop told by the sprite in memory, in the
terms `Covers` and `Collides` the claims are stated in. -/

namespace Sys2Proof.Machine

/-- Settles O27: the screen is replaced by the blank one, and nothing else is written. -/
theorem clsClearsScreen : Obligations.ClsClearsScreen :=
  ⟨decode_encode .cls, fun _ => ⟨_, rfl, fun px py _ _ => FrameBuffer.pixel_blank px py, onlyChanges_setFb⟩⟩

/-! ### The outcomes of DRW Vx, Vy, N (43_display.md R182) -/

theorem exec_drw_of_load_eq_none {x y n : Nibble} {s : State} (h : s.load s.i.toNat n.toNat = none) :
    exec (.drw x y n) s = s.raise .outOfRangeAccess := by
  simp only [exec, execDrw, h]

theorem exec_drw_of_load_eq_some {x y n : Nibble} {s : State} {bs : List Byte} (h : s.load s.i.toNat n.toNat = some bs) :
    exec (.drw x y n) s =
      .next ((s.setFb (drawnSprite s x y bs).1).writeV flagReg (flagByte (drawnSprite s x y bs).2)) := by
  simp only [exec, execDrw, h]

/-- The bounds check of a sprite by its last byte, the form the rule writes it in; a sprite of no row passes. -/
theorem inRange_iff_last_le {a n : Nat} : inRange a n ↔ n = 0 ∨ a + n - 1 ≤ 4095 := by
  rw [inRange_iff]
  omega

theorem State.length_of_load {s : State} {a n : Nat} {bs : List Byte} (h : s.load a n = some bs) : bs.length = n := by
  obtain ⟨-, rfl⟩ := State.load_eq_some.1 h
  exact Memory.readBytes_length _ s.mem a n

/-! ### The sprite in memory (43_display.md R182) -/

/-- A cell of the screen is covered by the bytes loaded from `I` exactly where the sprite in memory covers it. -/
theorem covers_iff_rowsCover_of_load {s : State} {n px py : Nat} {bs : List Byte} (x0 y0 : Nat) (h : s.load s.i.toNat n = some bs)
    (hpx : px < 64) (hpy : py < 32) : Covers s x0 y0 n px py ↔ ∃ r < bs.length, RowsCover bs x0 y0 px py r := by
  rw [State.length_of_load h]
  refine exists_congr fun r => and_congr_right fun hr => exists_congr fun c => ?_
  rw [RowCovers, State.getD_of_load h hr, Nat.mod_eq_of_lt hpx, Nat.mod_eq_of_lt hpy]

/-- The collision by rows and columns: folding each pixel names the cell it falls on. -/
theorem collides_iff_exists_row_column {s : State} {x0 y0 n : Nat} :
    Collides s x0 y0 n ↔ ∃ r < n, ∃ c < 8,
      (s.readByte (s.i.toNat + r)).getLsbD (7 - c) = true ∧ s.fb.pixel (x0 + c) (y0 + r) = true := by
  constructor
  · rintro ⟨_, _, _, _, ⟨r, hr, c, hc, hbit, rfl, rfl⟩, hon⟩
    exact ⟨r, hr, c, hc, hbit, FrameBuffer.pixel_mod s.fb _ _ ▸ hon⟩
  · rintro ⟨r, hr, c, hc, hbit, hon⟩
    exact ⟨_, _, Nat.mod_lt _ (by decide), Nat.mod_lt _ (by decide), ⟨r, hr, c, hc, hbit, rfl, rfl⟩,
      (FrameBuffer.pixel_mod s.fb _ _).trans hon⟩

/-- A bit toggled under a condition differs from before exactly where the condition holds. -/
theorem bne_decide_ne_self_iff (b : Bool) (p : Prop) [Decidable p] : (b != decide p) ≠ b ↔ p := by
  cases b <;> simp

/-- Drawing toggles exactly the cells the sprite in memory covers. -/
theorem drawnSprite_pixel_ne_iff {s : State} {n : Nat} {bs : List Byte} {px py : Nat} (x y : Nibble)
    (h : s.load s.i.toNat n = some bs) (hn : n ≤ 32) (hpx : px < 64) (hpy : py < 32) :
    (drawnSprite s x y bs).1.pixel px py ≠ s.fb.pixel px py ↔ Covers s (s.readV x).toNat (s.readV y).toNat n px py := by
  obtain ⟨hpixel, -⟩ := drawRows_spec (s.readV x).toNat bs (s.readV y).toNat (s.fb, false) (State.length_of_load h ▸ hn)
  rw [covers_iff_rowsCover_of_load _ _ h hpx hpy, drawnSprite, hpixel, bne_decide_ne_self_iff]

/-- Drawing collides exactly where the sprite in memory does. -/
theorem drawnSprite_collision_iff {s : State} {n : Nat} {bs : List Byte} (x y : Nibble)
    (h : s.load s.i.toNat n = some bs) (hn : n ≤ 32) :
    (drawnSprite s x y bs).2 = true ↔ Collides s (s.readV x).toNat (s.readV y).toNat n := by
  have hlen := State.length_of_load h
  obtain ⟨-, hcoll⟩ := drawRows_spec (s.readV x).toNat bs (s.readV y).toNat (s.fb, false) (hlen ▸ hn)
  rw [collides_iff_exists_row_column, drawnSprite, hcoll, Bool.false_or, @decide_eq_true_iff, hlen]
  refine exists_congr fun r => and_congr_right fun hr => ?_
  rw [State.getD_of_load h hr]

/-- Settles O28: the load of the sprite fails exactly where its last byte is out of range; the cells and the flag are those of
`drawnSprite`, which the flag write does not touch. -/
theorem drwTogglesCoveredCells : Obligations.DrwTogglesCoveredCells := by
  refine fun x y n s => ⟨decode_encode (.drw x y n), fun hout => ?_, fun hin => ?_⟩
  · exact raises_of_exec_eq_raise (exec_drw_of_load_eq_none (State.load_eq_none.2 (inRange_iff_last_le.not.2 (by omega))))
  · obtain ⟨bs, hload⟩ : ∃ bs, s.load s.i.toNat n.toNat = some bs := ⟨_, State.load_of_inRange s (inRange_iff_last_le.2 hin)⟩
    have hn : n.toNat ≤ 32 := by have := n.isLt; omega
    have hcoll := drawnSprite_collision_iff x y hload hn
    refine ⟨_, exec_drw_of_load_eq_some hload, fun px py => drawnSprite_pixel_ne_iff x y hload hn, fun hc => ?_, fun hc => ?_,
      keepsRegs_writeV, (onlyChanges_setFb.trans onlyChanges_writeV).mono (by decide)⟩
    · rw [hcoll.2 hc]
      exact State.writeV_readV_self _ 15 1
    · rw [Bool.eq_false_iff.2 (hcoll.not.2 hc)]
      exact State.writeV_readV_self _ 15 0

/-! ### Drawing twice (43_display.md R183) -/

/-- The state a completing DRW answers: O28 for a draw that is already known to answer `t`. -/
theorem cells_and_flag_of_exec_drw {x y n : Nibble} {s t : State} (hin : n.toNat = 0 ∨ s.i.toNat + n.toNat - 1 ≤ 4095)
    (h : exec (.drw x y n) s = .next t) :
    (∀ px py, px < 64 → py < 32 →
      (t.fb.pixel px py ≠ s.fb.pixel px py ↔ Covers s (s.readV x).toNat (s.readV y).toNat n.toNat px py)) ∧
    (t.readV 15 = 1 ↔ Collides s (s.readV x).toNat (s.readV y).toNat n.toNat) ∧
    KeepsRegs [15] s t ∧ OnlyChanges [.v, .fb] s t := by
  obtain ⟨-, -, hnext⟩ := drwTogglesCoveredCells x y n s
  obtain ⟨t', ht', hcells, hon, hoff, hregs, hframe⟩ := hnext hin
  cases ht'.symm.trans h
  refine ⟨hcells, ⟨fun hflag => ?_, hon⟩, hregs, hframe⟩
  by_contra hc
  exact absurd ((hoff hc).symm.trans hflag) (by decide)

/-- The cells a sprite covers depend on `I` and on memory alone. -/
theorem covers_congr {s t : State} (hi : t.i = s.i) (hmem : ∀ a : Nat, t.readByte a = s.readByte a) (x0 y0 n px py : Nat) :
    Covers t x0 y0 n px py ↔ Covers s x0 y0 n px py := by
  simp only [Covers, hi, hmem]

/-- Toggling a cell twice under the same condition restores it. -/
theorem bool_eq_of_ne_iff_ne {a b c : Bool} (h : a ≠ b ↔ b ≠ c) : a = c := by
  revert a b c
  decide

/-- Settles O29: the second draw has the origin and the sprite of the first, so it toggles the same cells back, and its flag is O28's. -/
theorem drwTwiceRestoresScreen : Obligations.DrwTwiceRestoresScreen := by
  intro x y n s t u hx hy hin hst htu
  obtain ⟨hcells, -, hregs, hframe⟩ := cells_and_flag_of_exec_drw hin hst
  have hi : t.i = s.i := hframe .i (by decide)
  have hmem : ∀ a : Nat, t.readByte a = s.readByte a := hframe .mem (by decide)
  obtain ⟨hcells', hflag', -, -⟩ := cells_and_flag_of_exec_drw (hi ▸ hin) htu
  rw [hregs x (List.mem_singleton.not.2 hx), hregs y (List.mem_singleton.not.2 hy)] at hcells' hflag'
  refine ⟨FrameBuffer.ext_pixel fun px py hpx hpy => bool_eq_of_ne_iff_ne (b := t.fb.pixel px py) ?_, hflag'⟩
  calc u.fb.pixel px py ≠ t.fb.pixel px py
      ↔ Covers t (s.readV x).toNat (s.readV y).toNat n.toNat px py := hcells' px py hpx hpy
    _ ↔ Covers s (s.readV x).toNat (s.readV y).toNat n.toNat px py := covers_congr hi hmem _ _ _ _ _
    _ ↔ t.fb.pixel px py ≠ s.fb.pixel px py := (hcells px py hpx hpy).symm

end Sys2Proof.Machine
end

section
/-! SUPPORT. The keypad and timer instructions (44_keypad_timers.md): what a key skip and a key-wait answer, and where a cycle that completes
a given instruction ends, the timers ticked after the instruction (R190). -/

namespace Sys2Proof.Machine

/-! ### Key skips (44_keypad_timers.md R191, R192) -/

theorem skipOnKey_of_gt {x : Nibble} {level : Bool} {s : State} (h : (s.readV x).toNat > 15) :
    skipOnKey x level s = s.raise .keyIndexOutOfRange := if_pos h

theorem skipOnKey_of_le {x : Nibble} {level : Bool} {s : State} (h : (s.readV x).toNat ≤ 15) :
    skipOnKey x level s = .next (s.skipIf (keyDown s.keys (s.readV x).toNat == level)) := if_neg (Nat.not_lt.2 h)

/-- Settles O30: the condition of the skip is that the key's level is 1. -/
theorem skpSkipsWhenPressed : Obligations.SkpSkipsWhenPressed :=
  fun x _ => ⟨decode_encode (.skp x), fun hgt => raises_of_exec_eq_raise (skipOnKey_of_gt hgt), fun hle =>
    ⟨_, skipOnKey_of_le hle, skipIf_pc_cases beq_iff_eq.2 fun hup => beq_eq_false_iff_ne.2 (ne_true_of_eq_false hup)⟩⟩

/-- Settles O31: the condition of the skip is that the key's level is 0. -/
theorem sknpSkipsWhenReleased : Obligations.SknpSkipsWhenReleased :=
  fun x _ => ⟨decode_encode (.sknp x), fun hgt => raises_of_exec_eq_raise (skipOnKey_of_gt hgt), fun hle =>
    ⟨_, skipOnKey_of_le hle, skipIf_pc_cases beq_iff_eq.2 fun hdown => beq_eq_false_iff_ne.2 (ne_false_of_eq_true hdown)⟩⟩

/-! ### A cycle that completes a given instruction (60_exceptions.md R211) -/

/-- A running core whose word at `PC` encodes `i`, where `i` latches no fault, ends the cycle with the tick of what `i` answered. -/
theorem eq_tick_nextInput_of_step {s t u : State} {i : Instr} (hrun : Running s) (hpc : s.pc.toNat ≤ 4094)
    (hword : wordAtPc s = encode i) (ht : exec i (s.fetched (wordAtPc s)) = .next t) (hkeep : t.fault = s.fault)
    (hu : step s = .next u) : u = t.tick.nextInput := by
  have hfetch : s.fetch = some (wordAtPc s) := State.fetch_eq_some.2 ⟨hpc, rfl⟩
  have hstep : step s = .next (endOfCycle s t) := step_of_exec hrun hfetch (hword ▸ decode_encode i) ht
  rw [endOfCycle_of_running s t (hkeep ▸ hrun)] at hstep
  exact Host.Outcome.next.inj (hu.symm.trans hstep)

/-! ### The timers (44_keypad_timers.md R193, R195, R196) -/

/-- Settles O32: the register takes the timer the cycle started with, and the tick comes after it. -/
theorem ldVxDtReadsTimer : Obligations.LdVxDtReadsTimer := by
  refine fun x s => ⟨decode_encode (.ldVxDt x), ⟨_, rfl, s.writeV_readV_self x s.dt, keepsRegs_writeV, onlyChanges_writeV⟩,
    fun u hrun hpc hword hu => ?_⟩
  obtain rfl := eq_tick_nextInput_of_step (i := .ldVxDt x) hrun hpc hword rfl rfl hu
  exact ⟨State.writeV_readV_self _ x s.dt, decay_toNat s.dt⟩

/-- Settles O34: the tick counts down the value just written. -/
theorem ldDtVxSetsTimer : Obligations.LdDtVxSetsTimer := by
  refine fun x s => ⟨decode_encode (.ldDtVx x), ⟨_, rfl, rfl, onlyChanges_setDt⟩, fun u hrun hpc hword hu => ?_⟩
  obtain rfl := eq_tick_nextInput_of_step (i := .ldDtVx x) hrun hpc hword rfl rfl hu
  exact decay_toNat (s.readV x)

/-- Settles O35: the tick counts down the value just written. -/
theorem ldStVxSetsTimer : Obligations.LdStVxSetsTimer := by
  refine fun x s => ⟨decode_encode (.ldStVx x), ⟨_, rfl, rfl, onlyChanges_setSt⟩, fun u hrun hpc hword hu => ?_⟩
  obtain rfl := eq_tick_nextInput_of_step (i := .ldStVx x) hrun hpc hword rfl rfl hu
  exact decay_toNat (s.readV x)

/-! ### The key-wait (44_keypad_timers.md R194) -/

theorem exec_ldVxK_of_leastKey_eq_none {x : Nibble} {s : State} (h : leastKey s.keys = none) :
    exec (.ldVxK x) s = .next (s.setPc (s.pc - 2)) := by
  simp only [exec, execLdVxK, h, afterKeyWait]

theorem exec_ldVxK_of_leastKey_eq_some {x : Nibble} {s : State} {k : Nat} (h : leastKey s.keys = some k) :
    exec (.ldVxK x) s = .next (s.writeV x (BitVec.ofNat 8 k)) := by
  simp only [exec, execLdVxK, h, afterKeyWait]

theorem onlyChanges_tick {s : State} : OnlyChanges [.dt, .st] s s.tick := by
  intro p hp; cases p <;> simp [Part.same] at hp ⊢

theorem onlyChanges_fetched {s : State} {w : Word} : OnlyChanges [.pc, .ir] s (s.fetched w) := by
  intro p hp; cases p <;> simp [Part.same] at hp ⊢

/-- A listed part that ends as it was need not be listed. -/
theorem OnlyChanges.of_cons {p : Part} {ps : List Part} {s t : State} (h : OnlyChanges (p :: ps) s t) (hp : p.same s t) :
    OnlyChanges ps s t := fun q hq => by
  by_cases hqp : q = p
  · exact hqp ▸ hp
  · exact h q (List.not_mem_cons_of_ne_of_not_mem hqp hq)

/-- A waiting cycle undoes the advance of `PC`, so what remains is the fetched word, the tick and the consumed input. -/
theorem onlyChanges_waiting_cycle {s : State} {w : Word} :
    OnlyChanges [.ir, .dt, .st, .inputs] s ((s.fetched w).setPc s.pc).tick.nextInput :=
  (((onlyChanges_fetched.trans onlyChanges_setPc).trans onlyChanges_tick).trans onlyChanges_nextInput
    |>.mono (qs := [.pc, .ir, .dt, .st, .inputs]) (by decide)).of_cons rfl

/-- Settles O33: the scan finds no key exactly when `KEYS` is 0, and its result is the least key; the rewind undoes the fetch's advance. -/
theorem ldVxKTakesLeastKeyOrWaits : Obligations.LdVxKTakesLeastKeyOrWaits := by
  refine fun x s => ⟨decode_encode (.ldVxK x), fun hnone => ?_, fun k hk hdown hleast => ?_,
    fun u hrun hpc hword hnone hu => ?_⟩
  · exact ⟨_, exec_ldVxK_of_leastKey_eq_none (leastKey_eq_none.2 hnone), rfl, onlyChanges_setPc⟩
  · refine ⟨_, exec_ldVxK_of_leastKey_eq_some (leastKey_eq_some.2 ⟨hk, hdown, hleast⟩), ?_, keepsRegs_writeV, onlyChanges_writeV⟩
    rw [State.writeV_readV_self, BitVec.toNat_ofNat, Nat.mod_eq_of_lt (by omega)]
  · have hwait := exec_ldVxK_of_leastKey_eq_none (x := x) (s := s.fetched (wordAtPc s)) (leastKey_eq_none.2 hnone)
    rw [State.fetched_pc, BitVec.add_sub_cancel] at hwait
    obtain rfl := eq_tick_nextInput_of_step (i := .ldVxK x) hrun hpc hword hwait rfl hu
    exact ⟨rfl, rfl, decay_toNat s.dt, decay_toNat s.st, onlyChanges_waiting_cycle⟩

end Sys2Proof.Machine
end

section
/-! SUPPORT. Faults of a running core (60_exceptions.md R211 to R222): the conditions of R214 for an instruction decide between raising and
completing, hence so do the conditions for a cycle; and what a step answers in either case. -/

namespace Sys2Proof.Machine

/-! ### The execute step (60_exceptions.md R214) -/

/-- An instruction that may not write the latch completes. -/
theorem exec_completes_of_fault_not_mem {i : Instr} (s : State) (h : Part.fault ∉ writtenParts i) :
    ∃ t, exec i s = .next t ∧ t.fault = s.fault := by
  obtain ⟨t, ht, hkeep⟩ | ⟨c, -, ht⟩ := exec_cases i s
  · exact ⟨t, ht, hkeep⟩
  · exact ⟨_, ht, exec_onlyChanges ht .fault h⟩

/-- Every instruction raises the fault listed for it where one is listed, and completes otherwise: each condition of R214 is the one under
which the instruction's pop, push, transfer or key index fails. -/
theorem executeFault_cases (i : Instr) (s : State) :
    (∃ c, executeFault s i = some c ∧ Raises i s c) ∨
    (executeFault s i = none ∧ ∃ t, exec i s = .next t ∧ t.fault = s.fault) := by
  cases i with
  | ret =>
    obtain ⟨hsp, hpop⟩ | ⟨j, hsp, hpop⟩ := pop_cases s
    · exact .inl ⟨_, if_pos hsp, raises_of_exec_eq_raise (exec_ret_of_pop_eq_none hpop)⟩
    · exact .inr ⟨if_neg (by omega), _, exec_ret_of_pop_eq_some hpop, rfl⟩
  | call nnn =>
    obtain ⟨hsp, hpush⟩ | ⟨hsp, hpush⟩ := push_cases s s.pc
    · exact .inl ⟨_, if_pos hsp, raises_of_exec_eq_raise (exec_call_of_push_eq_none hpush)⟩
    · exact .inr ⟨if_neg hsp.ne, _, exec_call_of_push_eq_some hpush, rfl⟩
  | drw x y n =>
    obtain ⟨hin, hload⟩ | ⟨hin, hload⟩ := load_cases s s.i.toNat n.toNat <;> rw [inRange_iff_last_le] at hin
    · exact .inl ⟨_, if_pos (by omega), raises_of_exec_eq_raise (exec_drw_of_load_eq_none hload)⟩
    · exact .inr ⟨if_neg (by omega), _, exec_drw_of_load_eq_some hload, rfl⟩
  | ldB x =>
    obtain ⟨hin, hstore⟩ | ⟨hin, hstore⟩ := store_cases s s.i.toNat (bcdDigits (s.readV x)) <;> rw [inRange_bcdDigits_iff] at hin
    · exact .inl ⟨_, if_pos (Nat.not_le.1 hin), raises_of_exec_eq_raise (exec_ldB_of_store_eq_none hstore)⟩
    · exact .inr ⟨if_neg (Nat.not_lt.2 hin), _, exec_ldB_of_store_eq_some hstore, rfl⟩
  | storeRegs x =>
    obtain ⟨hin, hstore⟩ | ⟨hin, hstore⟩ := store_cases s s.i.toNat (regsThrough s x) <;> rw [inRange_regsThrough_iff] at hin
    · exact .inl ⟨_, if_pos (Nat.not_le.1 hin), raises_of_exec_eq_raise (exec_storeRegs_of_store_eq_none hstore)⟩
    · exact .inr ⟨if_neg (Nat.not_lt.2 hin), _, exec_storeRegs_of_store_eq_some hstore, rfl⟩
  | loadRegs x =>
    obtain ⟨hin, hload⟩ | ⟨hin, hload⟩ := load_cases s s.i.toNat (x.toNat + 1) <;> rw [inRange_succ_iff] at hin
    · exact .inl ⟨_, if_pos (Nat.not_le.1 hin), raises_of_exec_eq_raise (exec_loadRegs_of_load_eq_none hload)⟩
    · exact .inr ⟨if_neg (Nat.not_lt.2 hin), _, exec_loadRegs_of_load_eq_some hload, rfl⟩
  | skp x | sknp x =>
    obtain hgt | hle := Nat.lt_or_ge 15 (s.readV x).toNat
    · exact .inl ⟨_, if_pos hgt, raises_of_exec_eq_raise (skipOnKey_of_gt hgt)⟩
    · exact .inr ⟨if_neg (Nat.not_lt.2 hle), _, skipOnKey_of_le hle, rfl⟩
  | _ => exact .inr ⟨rfl, exec_completes_of_fault_not_mem s (by simp [writtenParts])⟩

/-- The conditions of R214 read neither `IR` nor `PC`. -/
theorem executeFault_fetched (s : State) (w : Word) (i : Instr) : executeFault (s.fetched w) i = executeFault s i := by
  cases i <;> rfl

/-! ### The cycle (60_exceptions.md R211, R214 to R216) -/

theorem fetch_eq_wordAtPc {s : State} (h : s.pc.toNat ≤ 4094) : s.fetch = some (wordAtPc s) := State.fetch_eq_some.2 ⟨h, rfl⟩

theorem cycleFault_of_pc_gt {s : State} (h : 4094 < s.pc.toNat) : cycleFault s = some .outOfRangeAccess := if_pos h

theorem cycleFault_of_decode_error {s : State} {e : DecodeError} (hpc : s.pc.toNat ≤ 4094) (hd : decode (wordAtPc s) = .error e) :
    cycleFault s = some .illegalInstruction := by
  simp only [cycleFault, if_neg (Nat.not_lt.2 hpc), hd]

theorem cycleFault_of_decode_ok {s : State} {i : Instr} (hpc : s.pc.toNat ≤ 4094) (hd : decode (wordAtPc s) = .ok i) :
    cycleFault s = executeFault s i := by
  simp only [cycleFault, if_neg (Nat.not_lt.2 hpc), hd]

/-- The word a fault records: the fetched one, or 0 where the fetch itself faulted (60_exceptions.md R216). -/
def faultWord (s : State) : Word := if 4094 < s.pc.toNat then 0 else wordAtPc s

theorem faultWord_of_pc_gt {s : State} (h : 4094 < s.pc.toNat) : faultWord s = 0 := if_pos h

theorem faultWord_of_pc_le {s : State} (h : s.pc.toNat ≤ 4094) : faultWord s = wordAtPc s := if_neg (Nat.not_lt.2 h)

/-- An instruction that raises discards its own writes: the cycle keeps the latch alone, which names the instruction's address and word. -/
theorem endOfCycle_of_raises {s t : State} {w : Word} {c : FaultCause}
    (h : t.fault = { valid := true, cause := c, pc := (s.fetched w).pc - 2, instr := (s.fetched w).ir }) :
    endOfCycle s t = s.nextInput.takeFault c s.pc w := by
  rw [State.fetched_pc, State.fetched_ir, BitVec.add_sub_cancel] at h
  rw [endOfCycle_of_faulted s t (by rw [h]), h]
  rfl

/-- From `s` to `u` the instruction at `PC` completes: it leaves the latch alone, the timers tick and the input sample is consumed
(60_exceptions.md R211). -/
def CompletesInstr (s u : State) : Prop :=
  ∃ i t, decode (wordAtPc s) = .ok i ∧ exec i (s.fetched (wordAtPc s)) = .next t ∧ t.fault = s.fault ∧ u = t.tick.nextInput

/-- A step of a running core takes the fault listed for its cycle where one is listed, and completes an instruction otherwise. -/
theorem step_cases_cycleFault {s : State} (hrun : Running s) :
    (∃ c, cycleFault s = some c ∧ step s = .next (s.nextInput.takeFault c s.pc (faultWord s))) ∨
    (cycleFault s = none ∧ ∃ u, step s = .next u ∧ CompletesInstr s u) := by
  obtain hgt | hle := Nat.lt_or_ge 4094 s.pc.toNat
  · rw [faultWord_of_pc_gt hgt]
    have hfetch : s.fetch = none := State.fetch_eq_none.2 hgt
    exact .inl ⟨_, cycleFault_of_pc_gt hgt, step_of_fetch_none hrun hfetch⟩
  rw [faultWord_of_pc_le hle]
  have hfetch := fetch_eq_wordAtPc hle
  cases hd : decode (wordAtPc s) with
  | error e => exact .inl ⟨_, cycleFault_of_decode_error hle hd, step_of_decode_error hrun hfetch hd⟩
  | ok i =>
    rw [cycleFault_of_decode_ok hle hd, ← executeFault_fetched s (wordAtPc s)]
    obtain ⟨c, hc, t, ht, hfault, -⟩ | ⟨hnone, t, ht, hkeep⟩ := executeFault_cases i (s.fetched (wordAtPc s)) <;>
      have hstep := step_of_exec hrun hfetch hd ht
    · exact .inl ⟨c, hc, endOfCycle_of_raises hfault ▸ hstep⟩
    · rw [endOfCycle_of_running s t (hkeep ▸ hrun)] at hstep
      exact .inr ⟨hnone, _, hstep, i, t, hd, ht, hkeep, rfl⟩

theorem CompletesInstr.running {s u : State} (hrun : Running s) (h : CompletesInstr s u) : Running u := by
  obtain ⟨i, t, -, -, hkeep, rfl⟩ := h
  exact (congrArg FaultLatch.valid hkeep).trans hrun

/-- Settles O43: the two cases of a running core's step, a fault taken and an instruction completed. -/
theorem faultsExactlyWhenListed : Obligations.FaultsExactlyWhenListed := by
  intro s hrun
  obtain ⟨c, hc, hstep⟩ | ⟨hnone, u, hstep, hu⟩ := step_cases_cycleFault hrun
  · refine ⟨_, hstep, fun c' => ?_⟩
    rw [hc, Option.some_inj]
    exact and_iff_right rfl
  · refine ⟨u, hstep, fun c => ?_⟩
    rw [hnone]
    exact iff_of_false (fun ⟨hv, _⟩ => Bool.eq_false_iff.1 (hu.running hrun) hv) nofun

/-- Settles O44: a step that ends with a latched fault is the first case, whose frame is that of the two operations it is made of. -/
theorem faultsArePrecise : Obligations.FaultsArePrecise := by
  intro s u hrun hu hv
  obtain ⟨c, hc, hstep⟩ | ⟨-, u', hstep, hu'⟩ := step_cases_cycleFault hrun <;> cases hu.symm.trans hstep
  · exact ⟨(onlyChanges_nextInput.trans onlyChanges_takeFault).mono (by decide), hc, rfl, rfl, step_of_stopped hv⟩
  · exact absurd hv (Bool.eq_false_iff.1 (hu'.running hrun))

/-! ### The timers over a cycle (60_exceptions.md R222) -/

/-- A cycle that completes, completes an instruction. -/
theorem CompletesTo.completesInstr {s u : State} (hrun : Running s) (h : CompletesTo s u) : CompletesInstr s u := by
  obtain ⟨hu, hurun⟩ := h
  obtain ⟨c, -, hstep⟩ | ⟨-, u', hstep, hu'⟩ := step_cases_cycleFault hrun <;> cases hu.symm.trans hstep
  · exact absurd rfl (Bool.eq_false_iff.1 hurun)
  · exact hu'

/-- Settles O42: the one instruction that writes a timer leaves `V[X]` in it, every other leaves it alone, and the tick comes last. -/
theorem timersTickEveryCycle : Obligations.TimersTickEveryCycle := by
  intro s u hrun h
  obtain ⟨i, t, hd, ht, -, rfl⟩ := h.completesInstr hrun
  rw [hd]
  refine ⟨(decay_toNat t.dt).trans ?_, (decay_toNat t.st).trans ?_⟩
  · cases i with
    | ldDtVx x => cases ht; rfl
    | _ => exact congrArg (·.toNat - 1) (exec_onlyChanges ht .dt (by simp [writtenParts]))
  · cases i with
    | ldStVx x => cases ht; rfl
    | _ => exact congrArg (·.toNat - 1) (exec_onlyChanges ht .st (by simp [writtenParts]))

/-! ### The stopped core (60_exceptions.md R217) -/

theorem hostCycle_of_stopped {s : State} (k : Inputs) (h : s.fault.valid = true) : hostCycle s k = s := by
  simp only [hostCycle, step_of_stopped (s := hostDrive s k) h]

/-- Settles O45: a requested cycle of a stopped core answers the stop, whatever its inputs. -/
theorem stoppedCoreStaysStopped : Obligations.StoppedCoreStaysStopped :=
  fun _ h => ⟨step_of_stopped h, fun k => hostCycle_of_stopped k h, fun _ => rfl, rfl⟩

/-! ### The step told by its parts (60_exceptions.md R211, R216, R222) -/

theorem decay_eq_ofNat (t : Byte) : decay t = BitVec.ofNat 8 (t.toNat - 1) :=
  BitVec.eq_of_toNat_eq (by rw [decay_toNat, BitVec.toNat_ofNat, Nat.mod_eq_of_lt (by omega)])

/-- The tick as one update of both timers. -/
theorem tick_eq_with_sub_one (s : State) :
    s.tick = { s with dt := BitVec.ofNat 8 (s.dt.toNat - 1), st := BitVec.ofNat 8 (s.st.toNat - 1) } := by
  rw [State.tick, decay_eq_ofNat, decay_eq_ofNat]

/-- Settles O40: the three ends of a running core's cycle, the third by what the instruction did to the latch. -/
theorem stepRunsDecodedInstr : Obligations.StepRunsDecodedInstr := by
  refine fun s hrun => ⟨fun hgt => step_of_fetch_none hrun (State.fetch_eq_none.2 hgt),
    fun e hle hd => step_of_decode_error hrun (fetch_eq_wordAtPc hle) hd, fun i t hle hd ht => ?_⟩
  have hstep : step s = .next (endOfCycle s t) := step_of_exec hrun (fetch_eq_wordAtPc hle) hd ht
  refine ⟨fun hrun' => ?_, fun hfault => ?_⟩
  · rw [hstep, endOfCycle_of_running s t hrun', tick_eq_with_sub_one]
    rfl
  · rw [hstep, endOfCycle_of_faulted s t hfault]
    rfl

end Sys2Proof.Machine
end

section
/-! SUPPORT. A jump to itself, Load and the first cycle with no program (70_reset_and_hazards.md R254 to R258, R266): the cycle of a self-jump
ends like a waiting one, with `PC` where it was; and Load is the checked store of the bytes it is given, cut at `PROG_CAP`. -/

namespace Sys2Proof.Machine

/-! ### A jump to itself (70_reset_and_hazards.md R266) -/

/-- A jump to the address it is fetched from undoes the advance of `PC`. -/
theorem exec_jp_fetched_of_pc_eq {s : State} {a : Addr12} {w : Word} (h : s.pc.toNat = a.toNat) :
    exec (.jp a) (s.fetched w) = .next ((s.fetched w).setPc s.pc) := by
  have hpc : addrOperand a = s.pc := BitVec.eq_of_toNat_eq ((addrOperand_toNat a).trans h.symm)
  rw [← hpc]
  rfl

theorem completesTo_of_self_jump {s : State} {a : Addr12} (hrun : Running s) (hpc : s.pc.toNat = a.toNat) (hle : a.toNat ≤ 4094)
    (hword : wordAtPc s = 0x1#4 ++ a) : CompletesTo s ((s.fetched (wordAtPc s)).setPc s.pc).tick.nextInput := by
  have hdecode : decode (wordAtPc s) = .ok (.jp a) := hword ▸ decode_encode (.jp a)
  have hstep := step_of_exec hrun (fetch_eq_wordAtPc (hpc ▸ hle)) hdecode (exec_jp_fetched_of_pc_eq hpc)
  rw [endOfCycle_of_running s ((s.fetched (wordAtPc s)).setPc s.pc) hrun] at hstep
  exact ⟨hstep, hrun⟩

theorem decay_eq_self_of_eq_zero {t : Byte} (h : t = 0) : decay t = t := (if_pos h).trans h.symm

/-- Settles O56: the cycle has the frame of a waiting one; with the word in `IR` and both timers at zero, those parts end as they were too. -/
theorem selfJumpIsFixedPoint : Obligations.SelfJumpIsFixedPoint := by
  refine fun s a hrun hpc hle hword => ⟨_, completesTo_of_self_jump hrun hpc hle hword, hword, decay_toNat s.dt, decay_toNat s.st,
    onlyChanges_waiting_cycle, fun hdt hst hir => ?_⟩
  have hsame : Part.ir.same s ((s.fetched (wordAtPc s)).setPc s.pc).tick.nextInput := hword.trans hir.symm
  exact ((onlyChanges_waiting_cycle.of_cons hsame).of_cons (decay_eq_self_of_eq_zero hdt)).of_cons (decay_eq_self_of_eq_zero hst)

/-! ### Load (70_reset_and_hazards.md R254 to R256) -/

theorem store_program (s : State) (bytes : List Byte) :
    s.store Config.progBase (bytes.take Config.progCap) = some (hostApply s (.load bytes)) :=
  State.store_of_inRange s (inRange_program bytes)

theorem length_program (bytes : List Byte) : (bytes.take Config.progCap).length = min bytes.length 3584 :=
  List.length_take.trans (Nat.min_comm _ _)

/-- Settles O58: Load is a store, so the bytes it leaves and its frame are those of a store. -/
theorem hostLoadCopiesProgram : Obligations.HostLoadCopiesProgram := by
  intro s bytes
  have hstore := store_program s bytes
  refine ⟨fun k hk => ?_, length_program bytes ▸ keepsMemOutside_of_store hstore, onlyChanges_of_store hstore⟩
  have hcap : k < Config.progCap := (lt_min_iff.1 hk).2
  calc (hostApply s (.load bytes)).readByte (0x200 + k)
      = (bytes.take Config.progCap).getD k 0 := State.readByte_add_of_store hstore (length_program bytes ▸ hk)
    _ = bytes.getD k 0 := by simp only [List.getD_eq_getElem?_getD, List.getElem?_take_of_lt hcap]

/-! ### The first cycle with no program (70_reset_and_hazards.md R258) -/

/-- Settles O59: the word at 0x200 is 0x0000 there, which matches no row of the opcode map. -/
theorem firstCycleWithoutProgramFaults : Obligations.FirstCycleWithoutProgramFaults :=
  unmatchedWordIsIllegal State.reset rfl (by decide) (by decide)

end Sys2Proof.Machine
end
